-- ==== Sys2Proof/Word.lean ====
section
/-! DEFINITION. The bit patterns that travel on the ports of `half_core` (spec/10_state.md R11, R18 to R24). -/

namespace Sys2Proof

/-- A 4-bit operation code on the port `op` (R24, R43). -/
abbrev OpCode := BitVec 4

/-- A binary16 pattern. It is its 16 bits and nothing else, so construct-from-bits and bits-of are the identity (R11). -/
abbrev Half := BitVec 16

/-- A binary32 pattern (R18, R20). -/
abbrev Single := BitVec 32

/-- A binary64 pattern (R19, R21). -/
abbrev Double := BitVec 64

/-- The wrapper's 64-bit operand bus `a` and result bus `r` (R24). -/
abbrev Bus := BitVec 64

/-- A 1-bit port: `eq`, `ne`, `lt`, `le`, `gt`, `ge`, `illegal` (R22 to R24). -/
abbrev Bit := BitVec 1

end Sys2Proof
end

