-- ==== Sys2Proof/Config.lean ====
section
/-! DEFINITION. The implementation parameters of spec/00_scope.md R6, at the values of this hardware, and the free values
that stand for what the spec leaves undefined (spec/70_reset_and_hazards.md R85, spec/93_implementation_defined.md U7). -/

namespace Sys2Proof.Config

/-- The two settings of the parameter `NAN_QUIETING` (R6; spec/41_widen.md R55, spec/42_narrow.md R63). -/
inductive NanQuieting where
  /-- A NaN's mantissa bits are kept: what the source says. -/
  | preserve
  /-- The most significant mantissa bit of every NaN result is set: the software library's variant. -/
  | libraryCompat
  deriving DecidableEq, Repr

/-- `NAN_QUIETING` of this hardware (R6, D7; log entry 6). -/
def nanQuieting : NanQuieting := .preserve

/-- `NARROW_NAN_FILL` of this hardware (R6, D6; log entry 5). -/
def narrowNanFill : BitVec 10 := 0x200#10

/-- `LATENCY` of this hardware, in cycles (R6, D13). The model has no time and no definition reads this number (R89; log
entry 7). -/
def latency : Nat := 0

/-- Free value: what `r` carries in the `n`-th evaluation whose result depends on an input bit that nothing drives (R85,
U7; log entry 2). It has no body, so no proof can learn a value of it. -/
opaque undrivenResult : Nat → Bus

/-- Free value: what `illegal` carries in the `n`-th evaluation while `op` is not driven (R85, U7; log entry 2). -/
opaque undrivenIllegal : Nat → Bit

end Sys2Proof.Config
end

