-- ==== Sys2Proof/Machine/State.lean ====
section
/-! DEFINITION. The machine's state, its reasons to stop, and the state after reset. -/

namespace Sys2Proof.Machine

/-- The block raises no exception of any kind (spec/60_exceptions.md R73, R74, R78), so there is no fault: nobody raises one. -/
inductive Fault where
  deriving DecidableEq, Repr

/-- Why a request is refused. -/
inductive Refusal where
  /-- Raised by an arm of `exec` for an instruction that has no meaning yet; no arm does. Safe: no claim is made. -/
  | notModelled (mnemonic : String)
  /-- Raised by `step` alone, for a code `0xB` to `0xF`: "A model should treat such a request as refused" (R45). Safe: the
  outputs that the hardware drives meanwhile, `r = 0` and `illegal = 1`, are those of `halfCore`, and no state follows. -/
  | reservedCode (op : OpCode)
  deriving DecidableEq, Repr

/-- An input port: the levels on its wires, and which of the wires something drives. Bit `i` of `value` means something only
where bit `i` of `driven` is 1; elsewhere the input is undefined, as a floating wire is (spec/70_reset_and_hazards.md R85). -/
structure InPort (w : Nat) where
  value  : BitVec w
  driven : BitVec w
  deriving DecidableEq, Repr

/-- A port every wire of which carries `v`. -/
def InPort.full {w : Nat} (v : BitVec w) : InPort w := ⟨v, BitVec.allOnes w⟩

/-- A port that nothing drives. -/
def InPort.floating (w : Nat) : InPort w := ⟨0#w, 0#w⟩

/-- The block holds no state of its own (spec/10_state.md R11 to R17). State is the values on the wrapper's ports (R24): what
the host drives, and what the last evaluation put on the outputs (log entry 1). -/
structure State where
  /-- The operation code. -/
  op        : InPort 4
  /-- The first operand bus. -/
  a         : InPort 64
  /-- The second operand bus. -/
  b         : InPort 16
  /-- The result bus. -/
  r         : Bus
  /-- 1 for a reserved code, else 0. -/
  illegal   : Bit
  /-- The MODEL's own field: the number of the next free value (log entry 2). -/
  freeIndex : Nat
  deriving DecidableEq, Repr

/-- Power-up, before the surrounding system drives an input. There is no reset and no reset value (R84); no input is driven, so
both outputs are undefined (R85) and carry free values. Log entry 3. -/
def State.reset : State where
  op        := .floating 4
  a         := .floating 64
  b         := .floating 16
  r         := Config.undrivenResult 0
  illegal   := Config.undrivenIllegal 0
  freeIndex := 1

end Sys2Proof.Machine
end

