-- ==== Sys2Proof/Machine/Ops.lean ====
section
/-! DEFINITION. The pseudocode primitives of spec/00_scope.md R7 and R8, rounding (spec/42_narrow.md R58), and the operations
on the ports. The block has no memory, registers or exceptions, so there is no operation over those. -/

namespace Sys2Proof.Machine

/-! ### Primitives on unbounded unsigned integers (R7, R8) -/

/-- `v[hi:lo]`, the unsigned value of the slice; an empty slice (`hi < lo`) is 0. -/
def bits (v hi lo : Nat) : Nat := v / 2 ^ lo % 2 ^ (hi + 1 - lo)

/-- `v[i]`, as a truth value. -/
def bit (v i : Nat) : Bool := bits v i i == 1

/-- `v[n-1:0]`, the `n` low bits; no bits, and so 0, when `n` is 0. -/
def lowBits (v n : Nat) : Nat := v % 2 ^ n

/-- `or_reduce(v)`, as a truth value. -/
def orReduce (v : Nat) : Bool := v != 0

/-- `ones(N)`. -/
def ones (n : Nat) : Nat := 2 ^ n - 1

/-- `msb_index(v)`. The rules never apply it to 0 (U10; log entry 14). -/
def msbIndex (v : Nat) : Nat := Nat.log2 v

/-- The concatenation of `p` above `q`, where `q` is `wq` bits wide. -/
def concat (p q wq : Nat) : Nat := p * 2 ^ wq + q

/-- `zext_64(v)`, onto the result bus. -/
def zext64 {n : Nat} (v : BitVec n) : Bus := v.setWidth 64

/-- The rounding rule R58, for a value `v` whose `sh` low bits are discarded: the retained bits, incremented when (rounding bit
set and (sticky bit set or retained lowest bit 1)). The sticky bit is the OR of every discarded bit below the rounding bit. -/
def roundNearestEven (v sh : Nat) : Nat :=
  let keep := v / 2 ^ sh
  let rb   := bit v (sh - 1)
  let st   := orReduce (lowBits v (sh - 1))
  let inc  := rb && (st || bit keep 0)
  keep + inc.toNat

/-! ### What the host does to the input ports -/

/-- The host drives the operation code. -/
def State.driveOp (s : State) (op : OpCode) : State := { s with op := .full op }

/-- The host drives all of the bus `a`. -/
def State.driveA (s : State) (a : Bus) : State := { s with a := .full a }

/-- The host drives the bus `b`. -/
def State.driveB (s : State) (b : Half) : State := { s with b := .full b }

/-- The host drives a whole request, the triple `(op, a, b)` of spec/95_test_vectors.md section 4. -/
def State.driveRequest (s : State) (op : OpCode) (a : Bus) (b : Half) : State :=
  ((s.driveOp op).driveA a).driveB b

/-- The host drives nothing. -/
def State.floatInputs (s : State) : State :=
  { s with op := .floating 4, a := .floating 64, b := .floating 16 }

/-! ### What an evaluation does to the output ports -/

/-- Drive both outputs. -/
def State.setOutputs (s : State) (r : Bus) (illegal : Bit) : State := { s with r := r, illegal := illegal }

/-- Take the next free value as the value of `r`, and drive `illegal` (R85, U7; log entry 2). -/
def State.setUndefinedResult (s : State) (illegal : Bit) : State :=
  { s with r := Config.undrivenResult s.freeIndex, illegal := illegal, freeIndex := s.freeIndex + 1 }

/-- The code itself is not driven: both outputs depend on it, so both take the next free value (R85). -/
def State.setUndefinedOutputs (s : State) : State := s.setUndefinedResult (Config.undrivenIllegal s.freeIndex)

end Sys2Proof.Machine
end

