-- ==== Sys2Proof/Machine/Formats.lean ====
section
/-! DEFINITION. The number formats of spec/30_encoding.md R35 to R41: layouts, classes, the numbers patterns stand for, and the
binary16 predicates. Patterns are read as unsigned integers (spec/00_scope.md R7). -/

namespace Sys2Proof.Machine

/-- A format: one sign bit above `ew` exponent bits of bias `bias` above `mw` mantissa bits. -/
structure FloatFormat where
  ew   : Nat
  mw   : Nat
  bias : Nat
  deriving DecidableEq, Repr

/-- R35. -/
def binary16 : FloatFormat := ⟨5, 10, 15⟩

/-- R37. -/
def binary32 : FloatFormat := ⟨8, 23, 127⟩

/-- R38. -/
def binary64 : FloatFormat := ⟨11, 52, 1023⟩

namespace FloatFormat

/-- The sign bit: 0 positive, 1 negative. -/
def sign (f : FloatFormat) (x : Nat) : Nat := bits x (f.ew + f.mw) (f.ew + f.mw)

/-- The exponent field. -/
def exponent (f : FloatFormat) (x : Nat) : Nat := bits x (f.ew + f.mw - 1) f.mw

/-- The mantissa field. -/
def mantissa (f : FloatFormat) (x : Nat) : Nat := bits x (f.mw - 1) 0

/-- The pattern with the given fields, each below its width. -/
def pattern (f : FloatFormat) (s e m : Nat) : Nat := concat (concat s e f.ew) m f.mw

end FloatFormat

/-- The five classes of a pattern (R36 to R38, R41). -/
inductive FpClass where
  | zero
  | subnormal
  | normal
  | infinite
  | nan
  deriving DecidableEq, Repr

/-- The class of a pattern of a format (R36, R37, R38). -/
def FloatFormat.classOf (f : FloatFormat) (x : Nat) : FpClass :=
  let e := f.exponent x
  let m := f.mantissa x
  if e = 0 then (if m = 0 then .zero else .subnormal)
  else if e = ones f.ew then (if m = 0 then .infinite else .nan)
  else .normal

/-- The binary16 classification, as R41 writes it. -/
def class16 (h : Half) : FpClass :=
  let e := bits h.toNat 14 10
  let m := bits h.toNat 9 0
  if e = 0 ∧ m = 0 then .zero
  else if e = 0 then .subnormal
  else if e ≤ 30 then .normal
  else if m = 0 then .infinite
  else .nan

/-- The sign bit of a binary16 pattern (R35). -/
def sign16 (h : Half) : Bool := bit h.toNat 15

/-- The magnitude of a binary16 pattern: bits 14 to 0, read as an unsigned integer (R10, R35). -/
def magnitude16 (h : Half) : Nat := bits h.toNat 14 0

/-- R40. -/
def isNaN16 (h : Half) : Bool := 0x7C00 < magnitude16 h

/-- R40. -/
def isInf16 (h : Half) : Bool := magnitude16 h == 0x7C00

/-- R40. -/
def isZero16 (h : Half) : Bool := magnitude16 h == 0

/-- R40: both patterns are `+0` or `-0`. -/
def bothZero (a b : Half) : Bool := bits (a ||| b).toNat 14 0 == 0

/-- What a pattern that is not a NaN stands for (R36 to R38). Finite numbers are exact, counted in units of `2^-1074`, the least
step of the three formats: every finite binary16, binary32 and binary64 number is a whole number of them (log entry 9). -/
inductive Number where
  | negInfinity
  | finite (units : Int)
  | posInfinity
  deriving DecidableEq, Repr

/-- The order of numbers, infinities included. -/
def Number.less : Number → Number → Bool
  | .negInfinity, .negInfinity => false
  | .negInfinity, _            => true
  | .finite _, .negInfinity    => false
  | .finite x, .finite y       => x < y
  | .finite _, .posInfinity    => true
  | .posInfinity, _            => false

/-- `(-1)^s * n`. -/
def signed (s n : Nat) : Int := if s = 1 then -(n : Int) else (n : Int)

/-- The value formula of R36 to R38 in units of `2^-1074`: `(-1)^S * M` steps for a zero or subnormal and
`(-1)^S * (2^mw + M) * 2^(E - 1)` steps for a normal, where a step is `2^(1 - bias - mw)`, that is `2^(1075 - bias - mw)`
units. For an infinity the formula gives the value next above the largest finite one. -/
def FloatFormat.units (f : FloatFormat) (x : Nat) : Int :=
  let e := f.exponent x
  let m := f.mantissa x
  let steps := if e = 0 then m else (2 ^ f.mw + m) * 2 ^ (e - 1)
  signed (f.sign x) (steps * 2 ^ (1075 - f.bias - f.mw))

/-- The number that a pattern stands for; none for a NaN (R36 to R38). -/
def FloatFormat.numberOf (f : FloatFormat) (x : Nat) : Option Number :=
  match f.classOf x with
  | .zero | .subnormal | .normal => some (.finite (f.units x))
  | .infinite => some (if f.sign x = 1 then .negInfinity else .posInfinity)
  | .nan => none

end Sys2Proof.Machine
end

