-- ==== Sys2Proof/Syntax.lean ====
section
/-! DEFINITION. The instruction set: the eleven operations of spec/30_encoding.md R44 and spec/opcode_table.json. -/

namespace Sys2Proof

/-- One constructor per row of the opcode table. A request is a 4-bit code with no other field (R43), so no constructor has an
argument: the operands are the buses `a` and `b`, which State holds. -/
inductive Instr where
  /-- binary16 to binary32 (R52). -/
  | h2f
  /-- binary16 to binary64 (R53). -/
  | h2d
  /-- binary32 to binary16 (R59). -/
  | f2h
  /-- binary64 to binary16 (R60). -/
  | d2h
  /-- equal (R65). -/
  | heq
  /-- not equal (R66). -/
  | hne
  /-- four-outcome comparison (R67). -/
  | hcmp
  /-- less than (R68). -/
  | hlt
  /-- less than or equal (R69). -/
  | hle
  /-- greater than (R70). -/
  | hgt
  /-- greater than or equal (R71). -/
  | hge
  deriving DecidableEq, Repr

/-- The mnemonic of R44. -/
def Instr.mnemonic : Instr → String
  | .h2f => "H2F"
  | .h2d => "H2D"
  | .f2h => "F2H"
  | .d2h => "D2H"
  | .heq => "HEQ"
  | .hne => "HNE"
  | .hcmp => "HCMP"
  | .hlt => "HLT"
  | .hle => "HLE"
  | .hgt => "HGT"
  | .hge => "HGE"

end Sys2Proof
end

