-- ==== Sys2Proof/WellFormed.lean ====
section
/-! DEFINITION. What is well formed: the codes a request may carry, and the instructions. -/

namespace Sys2Proof

/-- The codes a model accepts: `0x0` to `0xA`. Codes `0xB` to `0xF` are reserved (spec/30_encoding.md R45, R50; U5). -/
def codeAccepted (op : OpCode) : Bool := op.toNat ≤ 0xA

/-- An instruction has no field (R43), so there is nothing in one that could be ill formed. The check that refuses something
is `codeAccepted`, on the code an instruction is decoded from. -/
def Instr.wellFormed : Instr → Bool
  | .h2f | .h2d | .f2h | .d2h | .heq | .hne | .hcmp | .hlt | .hle | .hgt | .hge => true

end Sys2Proof
end

