-- ==== Sys2Proof/Decode.lean ====
section
/-! DEFINITION. Decoding and encoding of the operation code (spec/30_encoding.md R43 to R45, R50). -/

namespace Sys2Proof

/-- Why a code is not decoded. -/
inductive DecodeRefusal where
  /-- A reserved code, `0xB` to `0xF` (R45). -/
  | reservedCode (op : OpCode)
  deriving DecidableEq, Repr

/-- A row of the operation map: the code matches when its bits under `mask` are `pattern`. -/
structure OpcodeRow where
  mnemonic : String
  mask     : OpCode
  pattern  : OpCode
  instr    : Instr
  deriving DecidableEq, Repr

/-- The operation map of R44, in its order. -/
def opcodeTable : List OpcodeRow :=
  [⟨"H2F",  0xF#4, 0x0#4, .h2f⟩,
   ⟨"H2D",  0xF#4, 0x1#4, .h2d⟩,
   ⟨"F2H",  0xF#4, 0x2#4, .f2h⟩,
   ⟨"D2H",  0xF#4, 0x3#4, .d2h⟩,
   ⟨"HEQ",  0xF#4, 0x4#4, .heq⟩,
   ⟨"HNE",  0xF#4, 0x5#4, .hne⟩,
   ⟨"HCMP", 0xF#4, 0x6#4, .hcmp⟩,
   ⟨"HLT",  0xF#4, 0x7#4, .hlt⟩,
   ⟨"HLE",  0xF#4, 0x8#4, .hle⟩,
   ⟨"HGT",  0xF#4, 0x9#4, .hgt⟩,
   ⟨"HGE",  0xF#4, 0xA#4, .hge⟩]

/-- Does a code match a row? -/
def OpcodeRow.hits (row : OpcodeRow) (op : OpCode) : Bool := op &&& row.mask == row.pattern

/-- Decoding is `op` alone and is total on its 16 values: 11 name an operation, 5 are reserved and refused by name (R50). -/
def decode (op : OpCode) : Except DecodeRefusal Instr :=
  match opcodeTable.find? (·.hits op) with
  | some row => .ok row.instr
  | none     => .error (.reservedCode op)

/-- The code of an operation (R44). -/
def encode : Instr → OpCode
  | .h2f  => 0x0#4
  | .h2d  => 0x1#4
  | .f2h  => 0x2#4
  | .d2h  => 0x3#4
  | .heq  => 0x4#4
  | .hne  => 0x5#4
  | .hcmp => 0x6#4
  | .hlt  => 0x7#4
  | .hle  => 0x8#4
  | .hgt  => 0x9#4
  | .hge  => 0xA#4

/-- The four wires of `op` when the table's word is `w`, `nbits` bits wide: bit 0 is `op[0]`. The format has no other bit
(R43), so bits of `w` above bit 3 reach no wire (log entry 8). -/
def opOfTableWord (nbits w : Nat) : OpCode := BitVec.ofNat 4 (w % 2 ^ nbits)

/-- The instruction that the decoder reads from a word numbered as spec/opcode_table.json numbers it. -/
def decodeTableWord (nbits w : Nat) : Option Instr :=
  match decode (opOfTableWord nbits w) with
  | .ok i    => some i
  | .error _ => none

end Sys2Proof
end

