-- ==== Sys2Proof/Machine/Flags.lean ====
section
/-! DEFINITION. The block has no flags, condition codes or predicates (spec/10_state.md R14): rounding, overflow, underflow and
NaN operands report nothing (spec/60_exceptions.md R73). The one output beside the result is `illegal` (R24, R45, R47). -/

namespace Sys2Proof.Machine

/-- `illegal` for every code of R44 that is not reserved (R47). -/
def illegalOfDefined : Bit := 0#1

/-- `illegal` for a reserved code (R45). -/
def illegalOfReserved : Bit := 1#1

/-- The port `illegal` as a function of a driven code: 1 when `op` is a reserved code, else 0 (R24). -/
def illegalOutput (op : OpCode) : Bit := if codeAccepted op then illegalOfDefined else illegalOfReserved

end Sys2Proof.Machine
end

