-- ==== Sys2Proof/Machine/Operands.lean ====
section
/-! DEFINITION. Operand and result assembly on the wrapper (spec/30_encoding.md R46, R47): the bits of `a` and `b` an operation
reads, whether something drives them, and the answer it gives. -/

namespace Sys2Proof.Machine

/-- The `n` low bits of a port, as an operand: a bit pattern of its format, not extended, scaled or shifted (R46). -/
def InPort.low {w : Nat} (p : InPort w) (n : Nat) : BitVec n := p.value.setWidth n

/-- Does something drive the `n` low bits of a port? The bits above them are not looked at (R46, U6). -/
def InPort.lowDriven {w : Nat} (p : InPort w) (n : Nat) : Bool := p.driven.setWidth n == BitVec.allOnes n

/-- A one-operand operation of operand width `n`: it reads `a[n-1:0]` and nothing else, answers `answer` of it on `r`, and
drives `illegal = 0`. Where a bit it reads is not driven the result is undefined (R85), and only the result is. -/
def answerOne (n : Nat) (answer : BitVec n → Bus) (s : State) : Host.Outcome State Fault Refusal :=
  if s.a.lowDriven n then .next (s.setOutputs (answer (s.a.low n)) illegalOfDefined)
  else .next (s.setUndefinedResult illegalOfDefined)

/-- A two-operand operation: it reads `a[15:0]` and `b[15:0]`, `a` on the left (R23), and is otherwise like `answerOne`. -/
def answerTwo (answer : Half → Half → Bus) (s : State) : Host.Outcome State Fault Refusal :=
  if s.a.lowDriven 16 && s.b.lowDriven 16 then
    .next (s.setOutputs (answer (s.a.low 16) (s.b.low 16)) illegalOfDefined)
  else .next (s.setUndefinedResult illegalOfDefined)

/-- Does something drive every bit that an operation reads (the "operands read" column of R44)? -/
def operandsDriven : Instr → State → Bool
  | .h2f, s | .h2d, s => s.a.lowDriven 16
  | .f2h, s => s.a.lowDriven 32
  | .d2h, s => s.a.lowDriven 64
  | .heq, s | .hne, s | .hcmp, s | .hlt, s | .hle, s | .hgt, s | .hge, s => s.a.lowDriven 16 && s.b.lowDriven 16

end Sys2Proof.Machine
end

