-- ==== Sys2Proof/Machine/Equality.lean ====
section
/-! DEFINITION. Equality: fp16_equality_tester (HEQ, HNE), spec/43_equality.md R65 and R66. -/

namespace Sys2Proof.Machine

/-- The outputs of fp16_equality_tester (R22). -/
structure EqualityOutputs where
  eq : Bit
  ne : Bit
  deriving DecidableEq, Repr

/-- Equality (R65): the NaN test first, then identical patterns, then the two zeros. -/
def equal16 (a b : Half) : Bool :=
  if isNaN16 a || isNaN16 b then false
  else if a = b then true
  else if bothZero a b then true
  else false

/-- Inequality (R66): the negation of R65. -/
def notEqual16 (a b : Half) : Bool := !equal16 a b

/-- The unit fp16_equality_tester (R22). -/
def fp16EqualityTester (a b : Half) : EqualityOutputs where
  eq := BitVec.ofBool (equal16 a b)
  ne := BitVec.ofBool (notEqual16 a b)

/-- HEQ (R65): `r[0]`. -/
def execHeq (s : State) : Host.Outcome State Fault Refusal := answerTwo (fun a b => zext64 (fp16EqualityTester a b).eq) s

/-- HNE (R66): `r[0]`. -/
def execHne (s : State) : Host.Outcome State Fault Refusal := answerTwo (fun a b => zext64 (fp16EqualityTester a b).ne) s

end Sys2Proof.Machine
end

