-- ==== Sys2Proof/Machine/Narrow.lean ====
section
/-! DEFINITION. Narrowing: fp32_to_fp16_converter (F2H) and fp64_to_fp16_converter (D2H), spec/42_narrow.md R56 to R60 and the
variant R63. -/

namespace Sys2Proof.Machine

open Config (NanQuieting)

/-- The mantissa of a narrowed NaN: the top 10 source mantissa bits, or `fill` when those are all zero (R57); in the
`LIBRARY_COMPAT` variant, the top bits with `0x200` set (R63). -/
def narrowNanMantissa (q : NanQuieting) (fill : BitVec 10) (f : FloatFormat) (m : Nat) : Nat :=
  let t := bits m (f.mw - 1) (f.mw - 10)
  match q with
  | .preserve      => if t = 0 then fill.toNat else t
  | .libraryCompat => 0x200 ||| t

/-- The narrowing procedure R56, from a pattern `x` of a wider format `f`, its five cases in the order written. -/
def narrow (q : NanQuieting) (fill : BitVec 10) (f : FloatFormat) (x : Nat) : Nat :=
  let S := f.sign x
  let E := f.exponent x
  let M := f.mantissa x
  if E = ones f.ew then
    if M = 0 then concat S 0x7C00 15
    else binary16.pattern S 31 (narrowNanMantissa q fill f M)
  else if E = 0 then concat S 0 15
  else
    let h : Int := (E : Int) - f.bias + 15
    if h ≥ 31 then concat S 0x7C00 15
    else if h ≥ 1 then
      -- keep, rb and st are M[MW-1:MW-10], M[MW-11] and M[MW-12:0]; the increment carries into the exponent
      concat S (h.toNat * 2 ^ 10 + roundNearestEven M (f.mw - 10)) 15
    else
      let sh := ((f.mw : Int) - 9 - h).toNat
      if sh > f.mw + 1 then concat S 0 15
      else concat S (roundNearestEven (2 ^ f.mw + M) sh) 15

/-- fp32_to_fp16_converter under a setting of the two parameters (R59, R63, D6). -/
def f2hUnder (q : NanQuieting) (fill : BitVec 10) (a : Single) : Half := BitVec.ofNat 16 (narrow q fill binary32 a.toNat)

/-- fp64_to_fp16_converter under a setting of the two parameters (R60, R63, D6). -/
def d2hUnder (q : NanQuieting) (fill : BitVec 10) (a : Double) : Half := BitVec.ofNat 16 (narrow q fill binary64 a.toNat)

/-- The unit fp32_to_fp16_converter (R20, R59). -/
def fp32ToFp16Converter (a : Single) : Half := f2hUnder Config.nanQuieting Config.narrowNanFill a

/-- The unit fp64_to_fp16_converter (R21, R60). It rounds once, from the binary64 value (R62). -/
def fp64ToFp16Converter (a : Double) : Half := d2hUnder Config.nanQuieting Config.narrowNanFill a

/-- F2H (R59): `r[15:0]`, zero-extended. -/
def execF2h (s : State) : Host.Outcome State Fault Refusal := answerOne 32 (fun a => zext64 (fp32ToFp16Converter a)) s

/-- D2H (R60): `r[15:0]`, zero-extended. -/
def execD2h (s : State) : Host.Outcome State Fault Refusal := answerOne 64 (fun a => zext64 (fp64ToFp16Converter a)) s

end Sys2Proof.Machine
end

