-- ==== Sys2Proof/Machine/Ordering.lean ====
section
/-! DEFINITION. Ordering: fp16_comparator (HCMP, HLT, HLE, HGT, HGE), spec/44_ordering.md R67 to R71. As the source asks, each
operator has its own case split on the two sign bits; none is derived from another. -/

namespace Sys2Proof.Machine

/-- The four outcomes of the partial comparison (spec/30_encoding.md R48). -/
inductive Comparison where
  | less
  | equal
  | greater
  | unordered
  deriving DecidableEq, Repr

/-- The 2-bit code of an outcome (R48). -/
def Comparison.code : Comparison → BitVec 2
  | .less      => 0b00#2
  | .equal     => 0b01#2
  | .greater   => 0b10#2
  | .unordered => 0b11#2

/-- The outputs of fp16_comparator (R23). -/
structure ComparatorOutputs where
  ord : BitVec 2
  lt  : Bit
  le  : Bit
  gt  : Bit
  ge  : Bit
  deriving DecidableEq, Repr

/-- The partial comparison (R67). -/
def compare16 (a b : Half) : Comparison :=
  let ma := magnitude16 a
  let mb := magnitude16 b
  if isNaN16 a || isNaN16 b then .unordered
  else match sign16 a, sign16 b with
    | false, false => if ma < mb then .less else if ma = mb then .equal else .greater
    | false, true  => if bothZero a b then .equal else .greater
    | true,  false => if bothZero a b then .equal else .less
    | true,  true  => if mb < ma then .less else if ma = mb then .equal else .greater

/-- `a < b` (R68). -/
def less16 (a b : Half) : Bool :=
  let ma := magnitude16 a
  let mb := magnitude16 b
  if isNaN16 a || isNaN16 b then false
  else match sign16 a, sign16 b with
    | false, false => ma < mb
    | false, true  => false
    | true,  false => !bothZero a b
    | true,  true  => mb < ma

/-- `a <= b` (R69). -/
def lessEqual16 (a b : Half) : Bool :=
  let ma := magnitude16 a
  let mb := magnitude16 b
  if isNaN16 a || isNaN16 b then false
  else match sign16 a, sign16 b with
    | false, false => ma ≤ mb
    | false, true  => bothZero a b
    | true,  false => true
    | true,  true  => mb ≤ ma

/-- `a > b` (R70). -/
def greater16 (a b : Half) : Bool :=
  let ma := magnitude16 a
  let mb := magnitude16 b
  if isNaN16 a || isNaN16 b then false
  else match sign16 a, sign16 b with
    | false, false => ma > mb
    | false, true  => !bothZero a b
    | true,  false => false
    | true,  true  => mb > ma

/-- `a >= b` (R71). -/
def greaterEqual16 (a b : Half) : Bool :=
  let ma := magnitude16 a
  let mb := magnitude16 b
  if isNaN16 a || isNaN16 b then false
  else match sign16 a, sign16 b with
    | false, false => ma ≥ mb
    | false, true  => true
    | true,  false => bothZero a b
    | true,  true  => mb ≥ ma

/-- The unit fp16_comparator (R23). -/
def fp16Comparator (a b : Half) : ComparatorOutputs where
  ord := (compare16 a b).code
  lt  := BitVec.ofBool (less16 a b)
  le  := BitVec.ofBool (lessEqual16 a b)
  gt  := BitVec.ofBool (greater16 a b)
  ge  := BitVec.ofBool (greaterEqual16 a b)

/-- HCMP (R67): `r[1:0]`. -/
def execHcmp (s : State) : Host.Outcome State Fault Refusal := answerTwo (fun a b => zext64 (fp16Comparator a b).ord) s

/-- HLT (R68): `r[0]`. -/
def execHlt (s : State) : Host.Outcome State Fault Refusal := answerTwo (fun a b => zext64 (fp16Comparator a b).lt) s

/-- HLE (R69): `r[0]`. -/
def execHle (s : State) : Host.Outcome State Fault Refusal := answerTwo (fun a b => zext64 (fp16Comparator a b).le) s

/-- HGT (R70): `r[0]`. -/
def execHgt (s : State) : Host.Outcome State Fault Refusal := answerTwo (fun a b => zext64 (fp16Comparator a b).gt) s

/-- HGE (R71): `r[0]`. -/
def execHge (s : State) : Host.Outcome State Fault Refusal := answerTwo (fun a b => zext64 (fp16Comparator a b).ge) s

end Sys2Proof.Machine
end

