-- ==== Sys2Proof/Machine/Widen.lean ====
section
/-! DEFINITION. Widening: fp16_to_fp32_converter (H2F) and fp16_to_fp64_converter (H2D), spec/41_widen.md R51 to R53 and the
variant R55. -/

namespace Sys2Proof.Machine

open Config (NanQuieting)

/-- The loop of R51, step 3: shift the 11-bit `mm` left until its bit 10 is set, counting the shifts in `k`. A non-zero mantissa
needs 1 to 10 shifts, so fuel 10 is enough. -/
def normalise : (fuel k mm : Nat) → Nat × Nat
  | 0, k, mm => (k, mm)
  | fuel + 1, k, mm => if bit mm 10 then (k, mm) else normalise fuel (k + 1) (mm * 2)

/-- The NaN mantissa of a widened NaN: the payload at the top of the wider field, with the top bit set as well only in the
`LIBRARY_COMPAT` variant (R51 step 5, R55). -/
def widenNanMantissa (q : NanQuieting) (f : FloatFormat) (m : Nat) : Nat :=
  match q with
  | .preserve      => m * 2 ^ (f.mw - 10)
  | .libraryCompat => m * 2 ^ (f.mw - 10) ||| 2 ^ (f.mw - 1)

/-- The widening procedure R51, to the pattern of a wider format `f`. -/
def widen (q : NanQuieting) (f : FloatFormat) (h : Half) : Nat :=
  let s := bits h.toNat 15 15
  let e := bits h.toNat 14 10
  let m := bits h.toNat 9 0
  if e = 0 ∧ m = 0 then f.pattern s 0 0
  else if e = 0 then
    let (k, mm) := normalise 10 0 m
    f.pattern s (f.bias - 14 - k) (lowBits mm 10 * 2 ^ (f.mw - 10))
  else if e ≤ 30 then f.pattern s (e + f.bias - 15) (m * 2 ^ (f.mw - 10))
  else if m = 0 then f.pattern s (ones f.ew) 0
  else f.pattern s (ones f.ew) (widenNanMantissa q f m)

/-- fp16_to_fp32_converter under a setting of `NAN_QUIETING` (R52, R55). -/
def h2fUnder (q : NanQuieting) (a : Half) : Single := BitVec.ofNat 32 (widen q binary32 a)

/-- fp16_to_fp64_converter under a setting of `NAN_QUIETING` (R53, R55). -/
def h2dUnder (q : NanQuieting) (a : Half) : Double := BitVec.ofNat 64 (widen q binary64 a)

/-- The unit fp16_to_fp32_converter (R18, R52). -/
def fp16ToFp32Converter (a : Half) : Single := h2fUnder Config.nanQuieting a

/-- The unit fp16_to_fp64_converter (R19, R53). -/
def fp16ToFp64Converter (a : Half) : Double := h2dUnder Config.nanQuieting a

/-- H2F (R52): `r[31:0]`, zero-extended. -/
def execH2f (s : State) : Host.Outcome State Fault Refusal := answerOne 16 (fun a => zext64 (fp16ToFp32Converter a)) s

/-- H2D (R53): `r[63:0]`. -/
def execH2d (s : State) : Host.Outcome State Fault Refusal := answerOne 16 (fun a => fp16ToFp64Converter a) s

end Sys2Proof.Machine
end

