-- ==== Sys2Proof/Machine/Dispatch.lean ====
section
/-! DEFINITION. Which meaning each instruction has: one arm per constructor of Instr. -/

namespace Sys2Proof.Machine

def exec (i : Instr) (s : State) : Host.Outcome State Fault Refusal :=
  match i with
  | .h2f => Sys2Proof.Machine.execH2f s
  | .h2d => Sys2Proof.Machine.execH2d s
  | .f2h => Sys2Proof.Machine.execF2h s
  | .d2h => Sys2Proof.Machine.execD2h s
  | .heq => Sys2Proof.Machine.execHeq s
  | .hne => Sys2Proof.Machine.execHne s
  | .hcmp => Sys2Proof.Machine.execHcmp s
  | .hlt => Sys2Proof.Machine.execHlt s
  | .hle => Sys2Proof.Machine.execHle s
  | .hgt => Sys2Proof.Machine.execHgt s
  | .hge => Sys2Proof.Machine.execHge s

end Sys2Proof.Machine
end

