-- ==== Sys2Proof/Machine/Fetch.lean ====
section
/-! DEFINITION. Where a request's code comes from. The block fetches nothing and has no program counter (spec/10_state.md R13,
spec/20_memory.md R34): the code is the level on the port `op`. -/

namespace Sys2Proof.Machine

/-- The code on `op`; none while some wire of `op` is not driven (spec/70_reset_and_hazards.md R85; log entry 13). -/
def State.requestedCode (s : State) : Option OpCode := if s.op.lowDriven 4 then some (s.op.low 4) else none

/-- Put a table word's code on `op`, as the host does when it issues a request. -/
def State.placeCode (s : State) (nbits w : Nat) : State := s.driveOp (opOfTableWord nbits w)

end Sys2Proof.Machine
end

