-- ==== Sys2Proof/Machine/Step.lean ====
section
/-! DEFINITION. One step: one evaluation of the wrapper (spec/30_encoding.md R43), as one atomic function application
(spec/70_reset_and_hazards.md R88). -/

namespace Sys2Proof.Machine

/-- With a code on `op`, decode it and run it; refuse a reserved code by name (R45). While `op` is not driven no operation is
named, and both outputs are undefined (R85). -/
def step (s : State) : Host.Outcome State Fault Refusal :=
  match s.requestedCode with
  | none => .next s.setUndefinedOutputs
  | some op =>
    match decode op with
    | .ok i                      => exec i s
    | .error (.reservedCode bad) => .refused (.reservedCode bad)

/-- `s` with the table word's code on `op`, so that the very next step runs it. The operand buses are as they were in `s`: the
request format has no operand field (R43). -/
def State.withFetchWord (s : State) (nbits w : Nat) : State := s.placeCode nbits w

end Sys2Proof.Machine
end

