-- ==== Sys2Proof/Machine/Request.lean ====
section
/-! DEFINITION. Requests as they are written (spec/30_encoding.md R49): an operation with its operands at their own widths, the
levels it puts on the ports (R46), and its text. The host writes these; the block sees only the levels. -/

namespace Sys2Proof.Machine

/-- A request with its operands; the first goes on `a` and the second on `b` (R49). -/
inductive Request where
  | h2f (a : Half)
  | h2d (a : Half)
  | f2h (a : Single)
  | d2h (a : Double)
  | heq (a b : Half)
  | hne (a b : Half)
  | hcmp (a b : Half)
  | hlt (a b : Half)
  | hle (a b : Half)
  | hgt (a b : Half)
  | hge (a b : Half)
  deriving DecidableEq, Repr

/-- The triple `(op, a, b)` of a request. -/
structure Levels where
  op : OpCode
  a  : Bus
  b  : Half
  deriving DecidableEq, Repr

/-- The operation of a request. -/
def Request.instr : Request → Instr
  | .h2f _ => .h2f
  | .h2d _ => .h2d
  | .f2h _ => .f2h
  | .d2h _ => .d2h
  | .heq _ _ => .heq
  | .hne _ _ => .hne
  | .hcmp _ _ => .hcmp
  | .hlt _ _ => .hlt
  | .hle _ _ => .hle
  | .hgt _ _ => .hgt
  | .hge _ _ => .hge

/-- The levels of a request; unread bits are written as 0 (spec/95_test_vectors.md section 4). -/
def Request.levels (q : Request) : Levels :=
  match q with
  | .h2f a | .h2d a => ⟨encode q.instr, zext64 a, 0#16⟩
  | .f2h a => ⟨encode q.instr, zext64 a, 0#16⟩
  | .d2h a => ⟨encode q.instr, a, 0#16⟩
  | .heq a b | .hne a b | .hcmp a b | .hlt a b | .hle a b | .hgt a b | .hge a b => ⟨encode q.instr, zext64 a, b⟩

/-- The request that the levels on the ports stand for: the operation that `op` decodes to, with the bits it reads (R46). -/
def Levels.request (l : Levels) : Except DecodeRefusal Request :=
  match decode l.op with
  | .error e => .error e
  | .ok i => .ok <|
    match i with
    | .h2f  => .h2f (l.a.setWidth 16)
    | .h2d  => .h2d (l.a.setWidth 16)
    | .f2h  => .f2h (l.a.setWidth 32)
    | .d2h  => .d2h l.a
    | .heq  => .heq (l.a.setWidth 16) l.b
    | .hne  => .hne (l.a.setWidth 16) l.b
    | .hcmp => .hcmp (l.a.setWidth 16) l.b
    | .hlt  => .hlt (l.a.setWidth 16) l.b
    | .hle  => .hle (l.a.setWidth 16) l.b
    | .hgt  => .hgt (l.a.setWidth 16) l.b
    | .hge  => .hge (l.a.setWidth 16) l.b

/-- The host puts a written request on the ports. -/
def State.issue (s : State) (q : Request) : State := s.driveRequest q.levels.op q.levels.a q.levels.b

/-- A hexadecimal digit. -/
def hexDigit (n : Nat) : Char := if n < 10 then Char.ofNat (48 + n) else Char.ofNat (55 + n)

/-- The `digits` low hexadecimal digits of `v`, the most significant first. -/
def hexDigits : (digits v : Nat) → List Char
  | 0, _ => []
  | digits + 1, v => hexDigits digits (v / 16) ++ [hexDigit (v % 16)]

/-- A pattern in hexadecimal at its width. -/
def hexText {w : Nat} (v : BitVec w) : List Char := '0' :: 'x' :: hexDigits (w / 4) v.toNat

/-- The operands of a request as text. -/
def Request.operandText : Request → List Char
  | .h2f a | .h2d a => hexText a
  | .f2h a => hexText a
  | .d2h a => hexText a
  | .heq a b | .hne a b | .hcmp a b | .hlt a b | .hle a b | .hgt a b | .hge a b => hexText a ++ [',', ' '] ++ hexText b

/-- A request as it is written: its mnemonic followed by its operands in hexadecimal at the operand's width (R49). -/
def Request.text (q : Request) : String := q.instr.mnemonic ++ " " ++ String.ofList q.operandText

end Sys2Proof.Machine
end

