-- ==== Sys2Proof/Machine/Wrapper.lean ====
section
/-! DEFINITION. The wrapper `half_core` as one combinational function of its driven inputs, row by row as spec/30_encoding.md R44
writes it, the reserved codes of R45 included. The step is stated to agree with it; neither calls the other. -/

namespace Sys2Proof.Machine

/-- The outputs of the wrapper (R24). -/
structure Outputs where
  r       : Bus
  illegal : Bit
  deriving DecidableEq, Repr

/-- `half_core(op, a, b)` of R44. For a reserved code the outputs are `r = 0` and `illegal = 1` (R45, D10): the value 0 is the
spec's choice and no result, and `step` refuses such a request (log entry 4). -/
def halfCore (op : OpCode) (a : Bus) (b : Half) : Outputs :=
  match op.toNat with
  | 0x0 => ⟨zext64 (fp16ToFp32Converter (a.setWidth 16)), 0#1⟩
  | 0x1 => ⟨fp16ToFp64Converter (a.setWidth 16), 0#1⟩
  | 0x2 => ⟨zext64 (fp32ToFp16Converter (a.setWidth 32)), 0#1⟩
  | 0x3 => ⟨zext64 (fp64ToFp16Converter a), 0#1⟩
  | 0x4 => ⟨zext64 (fp16EqualityTester (a.setWidth 16) b).eq, 0#1⟩
  | 0x5 => ⟨zext64 (fp16EqualityTester (a.setWidth 16) b).ne, 0#1⟩
  | 0x6 => ⟨zext64 (fp16Comparator (a.setWidth 16) b).ord, 0#1⟩
  | 0x7 => ⟨zext64 (fp16Comparator (a.setWidth 16) b).lt, 0#1⟩
  | 0x8 => ⟨zext64 (fp16Comparator (a.setWidth 16) b).le, 0#1⟩
  | 0x9 => ⟨zext64 (fp16Comparator (a.setWidth 16) b).gt, 0#1⟩
  | 0xA => ⟨zext64 (fp16Comparator (a.setWidth 16) b).ge, 0#1⟩
  | _   => ⟨0#64, 1#1⟩

end Sys2Proof.Machine
end

