-- ==== Sys2Proof/Safety.lean ====
section
/-! DEFINITION. What counts as a safe run, and the invariant of the outputs. -/

namespace Sys2Proof.Safety

open Sys2Proof.Machine

/-- No reserved code stands on `op`: a model accepts only codes `0x0` to `0xA` (spec/30_encoding.md R45; U5). -/
def Accepted (s : State) : Prop := ∀ op, s.requestedCode = some op → codeAccepted op = true

/-- `n` evaluations in a row complete. -/
def Completes (n : Nat) (s : State) : Prop := ∃ t, core.run n s = .next t

/-- "While its inputs carry defined values, every output carries the value its rule gives" (spec/70_reset_and_hazards.md R85):
with a defined code on `op` and something driving every bit its operation reads, `r` and `illegal` are those of R44. -/
def OutputsMatchInputs (s : State) : Prop :=
  ∀ op i, s.requestedCode = some op → decode op = .ok i → operandsDriven i s = true →
    s.r = (halfCore op s.a.value s.b.value).r ∧ s.illegal = (halfCore op s.a.value s.b.value).illegal

end Sys2Proof.Safety
end

