-- ==== Sys2Proof/Certificates/Slice0/Obligations.lean ====
section
/-! DEFINITION. The statements for the provers. Each is about every state or every operand pattern; the docstring of each names
the sentence of spec/ that it formalises. `Sys2Proof.Rule` transcribes the closed, format-specific forms of the instruction rules
(the case lists of R52 and R53, the exponent tables of R59 and R60, the case splits of R65 to R71) in bit-vector terms, apart
from the model's own procedures R51 and R56. -/

namespace Sys2Proof.Rule

open Sys2Proof.Machine

/-! ### The conversions, case by case -/

/-- The case list of R52. `BitVec.ofNat 23` of the shifted mantissa is the slice `[22:0]`. -/
def h2f (a : Half) : Single :=
  let s := a.extractLsb' 15 1
  let e := (a.extractLsb' 10 5).toNat
  let m := (a.extractLsb' 0 10).toNat
  if e = 0 ∧ m = 0 then s ++ 0#31
  else if e = 0 then
    let p := Nat.log2 m
    s ++ BitVec.ofNat 8 (p + 103) ++ BitVec.ofNat 23 (m <<< (23 - p))
  else if e ≤ 30 then s ++ BitVec.ofNat 8 (e + 112) ++ BitVec.ofNat 23 (m <<< 13)
  else s ++ 0xFF#8 ++ BitVec.ofNat 23 (m <<< 13)

/-- The case list of R53. -/
def h2d (a : Half) : Double :=
  let s := a.extractLsb' 15 1
  let e := (a.extractLsb' 10 5).toNat
  let m := (a.extractLsb' 0 10).toNat
  if e = 0 ∧ m = 0 then s ++ 0#63
  else if e = 0 then
    let p := Nat.log2 m
    s ++ BitVec.ofNat 11 (p + 999) ++ BitVec.ofNat 52 (m <<< (52 - p))
  else if e ≤ 30 then s ++ BitVec.ofNat 11 (e + 1008) ++ BitVec.ofNat 52 (m <<< 42)
  else s ++ 0x7FF#11 ++ BitVec.ofNat 52 (m <<< 42)

/-- `inc = rb and (st or keep[0])`, the last line of the tables of R59 and R60. -/
def increment (keep : Nat) (rb : Bool) (discardedBelow : Nat) : Nat :=
  if rb = true ∧ (discardedBelow ≠ 0 ∨ keep % 2 = 1) then 1 else 0

/-- The table of R59, by the source exponent `E`. -/
def f2h (a : Single) : Half :=
  let S := a.extractLsb' 31 1
  let E := (a.extractLsb' 23 8).toNat
  let M := (a.extractLsb' 0 23).toNat
  if E = 255 then
    if M = 0 then S ++ 0x7C00#15
    else S ++ 0b11111#5 ++ BitVec.ofNat 10 (if M >>> 13 = 0 then 0x200 else M >>> 13)
  else if 143 ≤ E then S ++ 0x7C00#15
  else if 113 ≤ E then
    S ++ BitVec.ofNat 15 (((E - 112) <<< 10) + M >>> 13 + increment (M >>> 13) (M.testBit 12) (M % 2 ^ 12))
  else if 102 ≤ E then
    let sh := 126 - E
    let F := 0x800000 ||| M
    S ++ BitVec.ofNat 15 (F >>> sh + increment (F >>> sh) (F.testBit (sh - 1)) (F % 2 ^ (sh - 1)))
  else S ++ 0#15

/-- The table of R60, by the source exponent `E`. -/
def d2h (a : Double) : Half :=
  let S := a.extractLsb' 63 1
  let E := (a.extractLsb' 52 11).toNat
  let M := (a.extractLsb' 0 52).toNat
  if E = 2047 then
    if M = 0 then S ++ 0x7C00#15
    else S ++ 0b11111#5 ++ BitVec.ofNat 10 (if M >>> 42 = 0 then 0x200 else M >>> 42)
  else if 1039 ≤ E then S ++ 0x7C00#15
  else if 1009 ≤ E then
    S ++ BitVec.ofNat 15 (((E - 1008) <<< 10) + M >>> 42 + increment (M >>> 42) (M.testBit 41) (M % 2 ^ 41))
  else if 998 ≤ E then
    let sh := 1051 - E
    let F := (1 <<< 52) ||| M
    S ++ BitVec.ofNat 15 (F >>> sh + increment (F >>> sh) (F.testBit (sh - 1)) (F % 2 ^ (sh - 1)))
  else S ++ 0#15

/-! ### The comparisons, case by case -/

/-- The magnitude bits of a pattern (R10), as a bit vector. -/
def mag (h : Half) : BitVec 15 := h.extractLsb' 0 15

/-- A NaN operand (R40). -/
def nan (h : Half) : Prop := 0x7C00#15 < mag h

/-- `+0` or `-0` on both sides: the OR of both patterns, masked to the lower 15 bits, is zero (R40). -/
def zeros (a b : Half) : Prop := (a ||| b) &&& 0x7FFF#16 = 0#16

/-- When HEQ answers 1 (R65). -/
def eqHolds (a b : Half) : Prop := ¬ nan a ∧ ¬ nan b ∧ (a = b ∨ zeros a b)

/-- When HLT answers 1, by the signs of `a` and `b` (R68). -/
def ltHolds (a b : Half) : Prop :=
  ¬ nan a ∧ ¬ nan b ∧
    match a.msb, b.msb with
    | false, false => mag a < mag b
    | false, true  => False
    | true,  false => ¬ zeros a b
    | true,  true  => mag b < mag a

/-- When HLE answers 1 (R69). -/
def leHolds (a b : Half) : Prop :=
  ¬ nan a ∧ ¬ nan b ∧
    match a.msb, b.msb with
    | false, false => mag a ≤ mag b
    | false, true  => zeros a b
    | true,  false => True
    | true,  true  => mag b ≤ mag a

/-- When HGT answers 1 (R70). -/
def gtHolds (a b : Half) : Prop :=
  ¬ nan a ∧ ¬ nan b ∧
    match a.msb, b.msb with
    | false, false => mag b < mag a
    | false, true  => ¬ zeros a b
    | true,  false => False
    | true,  true  => mag a < mag b

/-- When HGE answers 1 (R71). -/
def geHolds (a b : Half) : Prop :=
  ¬ nan a ∧ ¬ nan b ∧
    match a.msb, b.msb with
    | false, false => mag b ≤ mag a
    | false, true  => True
    | true,  false => zeros a b
    | true,  true  => mag a ≤ mag b

/-- The Less outcome of HCMP (R67): its three `return 2'b00` lines. -/
def cmpLess (a b : Half) : Prop :=
  match a.msb, b.msb with
  | false, false => mag a < mag b
  | false, true  => False
  | true,  false => ¬ zeros a b
  | true,  true  => mag b < mag a

/-- The Equal outcome of HCMP (R67): its four `return 2'b01` lines. -/
def cmpEqual (a b : Half) : Prop :=
  match a.msb, b.msb with
  | false, false | true, true => mag a = mag b
  | false, true | true, false => zeros a b

/-- `r` carries 1 exactly when `P` holds, and 0 otherwise. -/
def Answers (r : Bus) (P : Prop) : Prop := (P → r = 1#64) ∧ (¬ P → r = 0#64)

/-! ### What an operation reads and answers -/

/-- The bits of `a` that an operation reads: the "operands read" column of R44. -/
def maskA : Instr → Bus
  | .f2h => 0xFFFFFFFF#64
  | .d2h => BitVec.allOnes 64
  | .h2f | .h2d | .heq | .hne | .hcmp | .hlt | .hle | .hgt | .hge => 0xFFFF#64

/-- The bits of `b` that an operation reads (R44). -/
def maskB : Instr → Half
  | .h2f | .h2d | .f2h | .d2h => 0#16
  | .heq | .hne | .hcmp | .hlt | .hle | .hgt | .hge => 0xFFFF#16

/-- Something drives every bit that an operation reads. -/
def ReadsDriven (i : Instr) (s : State) : Prop :=
  s.a.driven &&& maskA i = maskA i ∧ s.b.driven &&& maskB i = maskB i

/-- Two states have the same levels on every bit that an operation reads. -/
def SameReads (i : Instr) (s t : State) : Prop :=
  s.a.value &&& maskA i = t.a.value &&& maskA i ∧ s.b.value &&& maskB i = t.b.value &&& maskB i

/-- The width of an operation's result: the "result" column of R44. -/
def resultWidth : Instr → Nat
  | .h2f => 32
  | .h2d => 64
  | .f2h | .d2h => 16
  | .hcmp => 2
  | .heq | .hne | .hlt | .hle | .hgt | .hge => 1

/-! ### Numbers -/

/-- `r` is a binary16 pattern nearest to `x` (in units of `2^-1074`) among the patterns that are not NaN, infinities counting as
the value next above 65504 in magnitude, and it is even where `x` is halfway between two different values. -/
def Nearest (x : Int) (r : Half) : Prop :=
  isNaN16 r = false ∧
  ∀ c : Half, isNaN16 c = false →
    (x - binary16.units r.toNat).natAbs ≤ (x - binary16.units c.toNat).natAbs ∧
    ((x - binary16.units r.toNat).natAbs = (x - binary16.units c.toNat).natAbs →
      binary16.units c.toNat ≠ binary16.units r.toNat → r.getLsbD 0 = false)

/-- The IEEE comparison of two patterns of a format: less. A NaN is unordered with everything. -/
def ieeeLess (f : FloatFormat) (x y : Nat) : Bool :=
  match f.numberOf x, f.numberOf y with
  | some p, some q => p.less q
  | _, _ => false

/-- The IEEE comparison of two patterns of a format: equal. -/
def ieeeEqual (f : FloatFormat) (x y : Nat) : Bool :=
  match f.numberOf x, f.numberOf y with
  | some p, some q => p == q
  | _, _ => false

/-- The outputs of the two comparison units on `a`, `b` are the IEEE comparison of the patterns `x`, `y` of a format. -/
def ComparesAs (f : FloatFormat) (a b : Half) (x y : Nat) : Prop :=
  equal16 a b = ieeeEqual f x y ∧
  notEqual16 a b = !ieeeEqual f x y ∧
  less16 a b = ieeeLess f x y ∧
  greater16 a b = ieeeLess f y x ∧
  lessEqual16 a b = (ieeeLess f x y || ieeeEqual f x y) ∧
  greaterEqual16 a b = (ieeeLess f y x || ieeeEqual f x y) ∧
  compare16 a b =
    (if ieeeLess f x y then .less else if ieeeEqual f x y then .equal
     else if ieeeLess f y x then .greater else .unordered)

end Sys2Proof.Rule

open Sys2Proof Sys2Proof.Machine Sys2Proof.Safety

/-! ### Decoding and the step -/

/-- R44: the codes, written out from the map's `op` column, decode to the operations of its rows, and `0xB` and `0xF` to none. -/
def Obligations.TableWordsDecode : Prop :=
  decodeTableWord 8 0b0000 = some .h2f ∧ decodeTableWord 8 0b0001 = some .h2d ∧
  decodeTableWord 8 0b0010 = some .f2h ∧ decodeTableWord 8 0b0011 = some .d2h ∧
  decodeTableWord 8 0b0100 = some .heq ∧ decodeTableWord 8 0b0110 = some .hcmp ∧
  decodeTableWord 8 0b1010 = some .hge ∧ decodeTableWord 8 0b1011 = none ∧ decodeTableWord 8 0b1111 = none

/-- R50: "Decoding is `op` alone, total on all 16 values of `op`": encoding and decoding are inverse both ways, and exactly the
codes above `0xA` are refused. -/
def Obligations.DecodeAndEncodeAgree : Prop :=
  (∀ i : Instr, decode (encode i) = .ok i) ∧
  (∀ op i, decode op = .ok i → encode i = op) ∧
  (∀ op : OpCode, codeAccepted op = false ↔ decode op = .error (.reservedCode op))

/-- R49, R46: the levels of a written request stand for that request, with every operand at every value; the host's putting it
on the ports makes the next step its operation. -/
def Obligations.WrittenRequestsReadBack : Prop :=
  ∀ (q : Request) (s : State),
    q.levels.request = .ok q ∧ step (s.issue q) = exec q.instr (s.issue q) ∧ operandsDriven q.instr (s.issue q) = true

/-- When the code on `op` decodes to an instruction, the step is that instruction's meaning at that state: nothing is fetched
and no program counter moves (R13). -/
def Obligations.StepRunsTheDecodedInstruction : Prop :=
  ∀ (s : State) (op : OpCode) (i : Instr), s.requestedCode = some op → decode op = .ok i → step s = exec i s

/-- R45 and R74: with a reserved code the wrapper drives `r = 0` and `illegal = 1` whatever is on `a` and `b`, driven or not; the
model refuses the request; and from the state that carries those outputs a next request with a defined code answers the same `r`
and `illegal` as if the reserved code had never been applied. -/
def Obligations.ReservedCodesAreRefusedAndLeaveNoTrace : Prop :=
  ∀ (s : State) (op : OpCode), 0xB ≤ op.toNat →
    (∀ a b, halfCore op a b = ⟨0#64, 1#1⟩) ∧
    (s.requestedCode = some op → step s = .refused (.reservedCode op)) ∧
    (∀ a b op' a' b', codeAccepted op' = true →
      ∃ t t', step (((s.driveRequest op a b).setOutputs 0#64 1#1).driveRequest op' a' b') = .next t ∧
        step (s.driveRequest op' a' b') = .next t' ∧ t.r = t'.r ∧ t.illegal = t'.illegal)

/-! ### Each instruction's result -/

/-- R52: H2F answers the case list's binary32 pattern on `r[31:0]`, zero-extended, with `illegal = 0`, and changes nothing else;
its code is `0x0`. -/
def Obligations.H2fAnswersItsCaseList : Prop :=
  ∀ s : State,
    (s.a.lowDriven 16 = true →
      exec .h2f s = .next { s with r := zext64 (Rule.h2f (s.a.value.setWidth 16)), illegal := 0#1 }) ∧
    (s.requestedCode = some 0x0#4 → step s = exec .h2f s)

/-- R53: H2D answers the case list's binary64 pattern on `r[63:0]`; its code is `0x1`. -/
def Obligations.H2dAnswersItsCaseList : Prop :=
  ∀ s : State,
    (s.a.lowDriven 16 = true →
      exec .h2d s = .next { s with r := Rule.h2d (s.a.value.setWidth 16), illegal := 0#1 }) ∧
    (s.requestedCode = some 0x1#4 → step s = exec .h2d s)

/-- R59: F2H answers the exponent table's binary16 pattern on `r[15:0]`, zero-extended; it gives infinity when `E == 142` and
`M >= 0x7FF000`; its code is `0x2`. -/
def Obligations.F2hAnswersItsExponentTable : Prop :=
  (∀ s : State,
    (s.a.lowDriven 32 = true →
      exec .f2h s = .next { s with r := zext64 (Rule.f2h (s.a.value.setWidth 32)), illegal := 0#1 }) ∧
    (s.requestedCode = some 0x2#4 → step s = exec .f2h s)) ∧
  (∀ x : Single, x.extractLsb' 23 8 = 142#8 →
    ((Rule.f2h x).extractLsb' 0 15 = 0x7C00#15 ↔ 0x7FF000#23 ≤ x.extractLsb' 0 23))

/-- R60: D2H answers the exponent table's binary16 pattern on `r[15:0]`, zero-extended; it gives infinity when `E == 1038` and
`M >= 0xFFE0000000000`; its code is `0x3`. -/
def Obligations.D2hAnswersItsExponentTable : Prop :=
  (∀ s : State,
    (s.a.lowDriven 64 = true →
      exec .d2h s = .next { s with r := zext64 (Rule.d2h s.a.value), illegal := 0#1 }) ∧
    (s.requestedCode = some 0x3#4 → step s = exec .d2h s)) ∧
  (∀ x : Double, x.extractLsb' 52 11 = 1038#11 →
    ((Rule.d2h x).extractLsb' 0 15 = 0x7C00#15 ↔ 0xFFE0000000000#52 ≤ x.extractLsb' 0 52))

/-- R65: HEQ answers 1 on `r[0]` when neither operand is a NaN and the patterns are identical or both zero, else 0; its code is
`0x4`. -/
def Obligations.HeqAnswersPatternEquality : Prop :=
  ∀ s : State,
    (s.a.lowDriven 16 = true → s.b.lowDriven 16 = true →
      ∃ r, exec .heq s = .next { s with r := r, illegal := 0#1 } ∧
        Rule.Answers r (Rule.eqHolds (s.a.value.setWidth 16) s.b.value)) ∧
    (s.requestedCode = some 0x4#4 → step s = exec .heq s)

/-- R66: HNE answers the negation of R65, so 1 for a NaN operand; its code is `0x5`. -/
def Obligations.HneAnswersTheNegation : Prop :=
  ∀ s : State,
    (s.a.lowDriven 16 = true → s.b.lowDriven 16 = true →
      ∃ r, exec .hne s = .next { s with r := r, illegal := 0#1 } ∧
        Rule.Answers r (¬ Rule.eqHolds (s.a.value.setWidth 16) s.b.value)) ∧
    (s.requestedCode = some 0x5#4 → step s = exec .hne s)

/-- R67: HCMP answers Unordered for a NaN operand, and otherwise Less, Equal or Greater by the split on the two signs, on
`r[1:0]`; its code is `0x6`. -/
def Obligations.HcmpAnswersByTheSigns : Prop :=
  ∀ s : State,
    (s.a.lowDriven 16 = true → s.b.lowDriven 16 = true →
      ∃ r, exec .hcmp s = .next { s with r := r, illegal := 0#1 } ∧
        let a := s.a.value.setWidth 16
        let b := s.b.value
        (Rule.nan a ∨ Rule.nan b → r = 0b11#64) ∧
        (¬ Rule.nan a → ¬ Rule.nan b →
          (Rule.cmpLess a b → r = 0b00#64) ∧ (Rule.cmpEqual a b → r = 0b01#64) ∧
          (¬ Rule.cmpLess a b → ¬ Rule.cmpEqual a b → r = 0b10#64))) ∧
    (s.requestedCode = some 0x6#4 → step s = exec .hcmp s)

/-- R68: HLT answers `a < b` by its own split on the two signs; its code is `0x7`. -/
def Obligations.HltAnswersByTheSigns : Prop :=
  ∀ s : State,
    (s.a.lowDriven 16 = true → s.b.lowDriven 16 = true →
      ∃ r, exec .hlt s = .next { s with r := r, illegal := 0#1 } ∧
        Rule.Answers r (Rule.ltHolds (s.a.value.setWidth 16) s.b.value)) ∧
    (s.requestedCode = some 0x7#4 → step s = exec .hlt s)

/-- R69: HLE answers `a <= b` by its own split on the two signs; its code is `0x8`. -/
def Obligations.HleAnswersByTheSigns : Prop :=
  ∀ s : State,
    (s.a.lowDriven 16 = true → s.b.lowDriven 16 = true →
      ∃ r, exec .hle s = .next { s with r := r, illegal := 0#1 } ∧
        Rule.Answers r (Rule.leHolds (s.a.value.setWidth 16) s.b.value)) ∧
    (s.requestedCode = some 0x8#4 → step s = exec .hle s)

/-- R70: HGT answers `a > b` by its own split on the two signs; its code is `0x9`. -/
def Obligations.HgtAnswersByTheSigns : Prop :=
  ∀ s : State,
    (s.a.lowDriven 16 = true → s.b.lowDriven 16 = true →
      ∃ r, exec .hgt s = .next { s with r := r, illegal := 0#1 } ∧
        Rule.Answers r (Rule.gtHolds (s.a.value.setWidth 16) s.b.value)) ∧
    (s.requestedCode = some 0x9#4 → step s = exec .hgt s)

/-- R71: HGE answers `a >= b` by its own split on the two signs; its code is `0xA`. -/
def Obligations.HgeAnswersByTheSigns : Prop :=
  ∀ s : State,
    (s.a.lowDriven 16 = true → s.b.lowDriven 16 = true →
      ∃ r, exec .hge s = .next { s with r := r, illegal := 0#1 } ∧
        Rule.Answers r (Rule.geHolds (s.a.value.setWidth 16) s.b.value)) ∧
    (s.requestedCode = some 0xA#4 → step s = exec .hge s)

/-! ### The wrapper and the step as a whole -/

/-- R44: with a defined code and the bits it reads driven, the step puts on the outputs what the wrapper's written-out function
gives, reading nothing else; with a reserved code that function gives `r = 0` and `illegal = 1`, and the model refuses (R45). -/
def Obligations.StepComputesTheWrapperFunction : Prop :=
  (∀ (s : State) (i : Instr), s.requestedCode = some (encode i) → Rule.ReadsDriven i s →
    step s = .next { s with r := (halfCore (encode i) s.a.value s.b.value).r, illegal := 0#1 } ∧
    (halfCore (encode i) s.a.value s.b.value).illegal = 0#1) ∧
  (∀ (s : State) (op : OpCode), s.requestedCode = some op → codeAccepted op = false →
    step s = .refused (.reservedCode op) ∧ halfCore op s.a.value s.b.value = ⟨0#64, 1#1⟩)

/-- R46: bits of `a` above the operand's width, and `b` where the operation takes no second operand, change neither `r` nor
`illegal`, and neither do the outputs of earlier evaluations: two states that agree on the code and on the bits it reads answer
alike, whether or not something drives the other bits. -/
def Obligations.OnlyTheBitsReadMatter : Prop :=
  ∀ (i : Instr) (s t : State), s.requestedCode = some (encode i) → t.requestedCode = some (encode i) →
    Rule.ReadsDriven i s → Rule.ReadsDriven i t → Rule.SameReads i s t →
    ∃ s' t', step s = .next s' ∧ step t = .next t' ∧ s'.r = t'.r ∧ s'.illegal = t'.illegal

/-- R47: the result is zero-extended to 64 bits, nothing above the width of the operation's result, and `illegal` is 0. -/
def Obligations.ResultsAreZeroExtended : Prop :=
  ∀ (i : Instr) (s : State), operandsDriven i s = true →
    ∃ t, exec i s = .next t ∧ t.r.toNat < 2 ^ Rule.resultWidth i ∧ t.illegal = 0#1

/-- R73, R47: no operation raises an exception: every instruction, in every state, answers a next state, with `illegal` 0. In a
state where some bit the instruction reads is not driven, that it completes with `illegal` 0 is the model's choice, log entry 2 (a
form of R85 and U7). -/
def Obligations.EveryInstructionCompletes : Prop :=
  ∀ (i : Instr) (s : State), ∃ t, exec i s = .next t ∧ t.illegal = 0#1

/-- The frame of all eleven instructions: an instruction changes no input port, and of the rest only `r` and `illegal` (and the
model's own count of free values, which it changes only where a bit it reads is not driven). -/
def Obligations.InstructionsChangeOnlyTheOutputs : Prop :=
  ∀ (i : Instr) (s t : State), exec i s = .next t →
    t.op = s.op ∧ t.a = s.a ∧ t.b = s.b ∧ (operandsDriven i s = true → t.freeIndex = s.freeIndex)

/-- R30 "every operation is idempotent": evaluating a request again, its inputs unchanged, gives the same state again. The
premise that something drives the bits read leaves out only evaluations whose result is undefined. -/
def Obligations.EvaluatingAgainChangesNothing : Prop :=
  ∀ (s t : State) (i : Instr), s.requestedCode = some (encode i) → operandsDriven i s = true →
    step s = .next t → step t = .next t

/-- R86: "The first request after power-up gives the same result as any later request with the same inputs". -/
def Obligations.FirstRequestAnswersLikeAnyOther : Prop :=
  ∀ (s : State) (op : OpCode) (a : Bus) (b : Half), codeAccepted op = true →
    ∃ t t', step (State.reset.driveRequest op a b) = .next t ∧ step (s.driveRequest op a b) = .next t' ∧
      t.r = t'.r ∧ t.illegal = t'.illegal

/-- R85, second half, in the model's form (log entry 2, the model's choice): where something drives `op` and nothing drives some
bit the operation reads, the instruction still completes, `r` takes the next free value, and `illegal`, which does not depend on
that bit, is 0. -/
def Obligations.UndrivenOperandsLeaveTheResultFree : Prop :=
  ∀ (i : Instr) (s : State), ¬ Rule.ReadsDriven i s →
    exec i s = .next { s with r := Config.undrivenResult s.freeIndex, illegal := 0#1, freeIndex := s.freeIndex + 1 }

/-- R85, second half, in the model's form (log entries 2 and 13, the model's choice): while some wire of `op` is not driven, both
outputs take the next free value. -/
def Obligations.UndrivenCodeLeavesBothOutputsFree : Prop :=
  ∀ s : State, s.op.driven ≠ BitVec.allOnes 4 →
    step s = .next { s with r := Config.undrivenResult s.freeIndex, illegal := Config.undrivenIllegal s.freeIndex,
                            freeIndex := s.freeIndex + 1 }

/-- "While its inputs carry defined values, every output carries the value its rule gives" (R85) is an invariant: every step,
from any state that has it, leads to a state that has it. -/
def Obligations.StepKeepsOutputsMatchingInputs : Prop :=
  ∀ s t : State, OutputsMatchInputs s → step s = .next t → OutputsMatchInputs t

/-- The invariant holds at reset, where no input is driven (log entry 3, the model's choice). -/
def Obligations.ResetOutputsMatchInputs : Prop := OutputsMatchInputs State.reset

/-- R73 over runs: from a state on whose `op` no reserved code stands, any number of evaluations complete, the inputs stay as they
are, and no evaluation faults or is refused. That they complete where some bit an operation reads, or some wire of `op`, is not
driven is the model's choice, log entries 2 and 13 (a form of R85 and U7). -/
def Obligations.AcceptedRequestsNeverStop : Prop :=
  ∀ (n : Nat) (s : State), Accepted s →
    Completes n s ∧ ∀ t, core.run n s = .next t → Accepted t ∧ t.op = s.op ∧ t.a = s.a ∧ t.b = s.b

/-! ### Classification and rounding -/

/-- R41, R40: the classification is by the conditions of R36 and does not look at the sign; the three predicates are its classes
NaN, Infinite and Zero. -/
def Obligations.ClassesAreByExponentAndMantissa : Prop :=
  ∀ h : Half,
    class16 h = binary16.classOf h.toNat ∧ class16 (h ^^^ 0x8000#16) = class16 h ∧
    (isNaN16 h = true ↔ class16 h = .nan) ∧ (isInf16 h = true ↔ class16 h = .infinite) ∧
    (isZero16 h = true ↔ class16 h = .zero)

/-- R41, the spec's own derived counts: Zero 2 patterns, Subnormal 2046, Normal 61440, Infinite 2, NaN 2046. -/
def Obligations.ClassCounts : Prop :=
  let count (c : FpClass) := (List.range 65536).countP fun n => class16 (BitVec.ofNat 16 n) = c
  count .zero = 2 ∧ count .subnormal = 2046 ∧ count .normal = 61440 ∧ count .infinite = 2 ∧ count .nan = 2046

/-- The rounding rule R58, read as what it computes: the retained integer is nearest to `v / 2^sh`, and even at a tie. -/
def Obligations.RoundingIsNearestTiesToEven : Prop :=
  ∀ v sh : Nat, 1 ≤ sh →
    let q := roundNearestEven v sh
    2 * (((v : Int) - q * 2 ^ sh).natAbs) ≤ 2 ^ sh ∧
    (2 * (((v : Int) - q * 2 ^ sh).natAbs) = 2 ^ sh → q % 2 = 0)

/-- R58, the spec's own derived bound: a narrowed finite number never exceeds `0x7C00` in magnitude, so a rounding carry reaches
infinity at most, never the sign bit and never a NaN. -/
def Obligations.RoundingCarryStopsAtInfinity : Prop :=
  (∀ x : Single, binary32.classOf x.toNat ≠ .nan →
    magnitude16 (fp32ToFp16Converter x) ≤ 0x7C00 ∧ sign16 (fp32ToFp16Converter x) = x.msb) ∧
  (∀ x : Double, binary64.classOf x.toNat ≠ .nan →
    magnitude16 (fp64ToFp16Converter x) ≤ 0x7C00 ∧ sign16 (fp64ToFp16Converter x) = x.msb)

/-! ### Widening -/

/-- R51: the loop of step 3 ends after `10 - p` shifts, 1 to 10 of them, with the leading bit at bit 10, and gives the mantissa of
the closed form, for both target formats; `p` is the index of the highest bit of the subnormal's mantissa. -/
def Obligations.NormalisationLoopHasItsClosedForm : Prop :=
  ∀ m : Nat, 0 < m → m < 1024 →
    let p := msbIndex m
    let (k, mm) := normalise 10 0 m
    k = 10 - p ∧ 1 ≤ k ∧ k ≤ 10 ∧ bit mm 10 = true ∧ mm < 2 ^ 11 ∧
    lowBits mm 10 * 2 ^ 13 = lowBits (m * 2 ^ (23 - p)) 23 ∧
    lowBits mm 10 * 2 ^ 42 = lowBits (m * 2 ^ (52 - p)) 52

/-- R51, the spec's own derived remark: a widened finite non-zero value is always a normal of the target format. -/
def Obligations.WidenedNumbersAreNormal : Prop :=
  ∀ h : Half, class16 h = .subnormal ∨ class16 h = .normal →
    binary32.classOf (fp16ToFp32Converter h).toNat = .normal ∧ binary64.classOf (fp16ToFp64Converter h).toNat = .normal

/-- R54: widening is exact on every pattern that is not a NaN, signed zeros included; a NaN gives a NaN of the same sign whose top
10 mantissa bits are its own; and both maps are injective on all patterns. -/
def Obligations.WideningIsExactAndInjective : Prop :=
  (∀ h : Half,
    binary32.numberOf (fp16ToFp32Converter h).toNat = binary16.numberOf h.toNat ∧
    binary64.numberOf (fp16ToFp64Converter h).toNat = binary16.numberOf h.toNat ∧
    (fp16ToFp32Converter h).msb = h.msb ∧ (fp16ToFp64Converter h).msb = h.msb) ∧
  (∀ h : Half, isNaN16 h = true →
    binary32.classOf (fp16ToFp32Converter h).toNat = .nan ∧ binary64.classOf (fp16ToFp64Converter h).toNat = .nan ∧
    (fp16ToFp32Converter h).extractLsb' 13 10 = h.extractLsb' 0 10 ∧
    (fp16ToFp64Converter h).extractLsb' 42 10 = h.extractLsb' 0 10) ∧
  (∀ h h' : Half, fp16ToFp32Converter h = fp16ToFp32Converter h' → h = h') ∧
  (∀ h h' : Half, fp16ToFp64Converter h = fp16ToFp64Converter h' → h = h')

/-- R55: under `NAN_QUIETING = LIBRARY_COMPAT` only the NaN case changes, its mantissa gaining the most significant bit; a NaN
whose `m[9]` is 1 gives the same result; and this hardware runs under `PRESERVE`. -/
def Obligations.LibraryCompatWideningChangesOnlyNans : Prop :=
  ∀ h : Half,
    (isNaN16 h = false →
      h2fUnder .libraryCompat h = h2fUnder .preserve h ∧ h2dUnder .libraryCompat h = h2dUnder .preserve h) ∧
    (isNaN16 h = true →
      h2fUnder .libraryCompat h =
        h.extractLsb' 15 1 ++ 0xFF#8 ++ BitVec.ofNat 23 ((h.extractLsb' 0 10).toNat <<< 13 ||| 1 <<< 22) ∧
      h2dUnder .libraryCompat h =
        h.extractLsb' 15 1 ++ 0x7FF#11 ++ BitVec.ofNat 52 ((h.extractLsb' 0 10).toNat <<< 42 ||| 1 <<< 51)) ∧
    (isNaN16 h = true → h.getLsbD 9 = true →
      h2fUnder .libraryCompat h = h2fUnder .preserve h ∧ h2dUnder .libraryCompat h = h2dUnder .preserve h) ∧
    fp16ToFp32Converter h = h2fUnder .preserve h ∧ fp16ToFp64Converter h = h2dUnder .preserve h

/-! ### Narrowing -/

/-- R57: a source NaN gives a NaN with the source's sign and the top 10 source mantissa bits, or `0x200` when those are all zero;
no lower mantissa bit affects it. -/
def Obligations.NansNarrowToNans : Prop :=
  (∀ x : Single, binary32.classOf x.toNat = .nan →
    let t := x.extractLsb' 13 10
    fp32ToFp16Converter x = x.extractLsb' 31 1 ++ 0b11111#5 ++ (if t = 0#10 then 0x200#10 else t) ∧
    isNaN16 (fp32ToFp16Converter x) = true) ∧
  (∀ x : Double, binary64.classOf x.toNat = .nan →
    let t := x.extractLsb' 42 10
    fp64ToFp16Converter x = x.extractLsb' 63 1 ++ 0b11111#5 ++ (if t = 0#10 then 0x200#10 else t) ∧
    isNaN16 (fp64ToFp16Converter x) = true)

/-- U2: "Every choice keeps the sign and the NaN class": under both settings of `NAN_QUIETING` and every non-zero
`NARROW_NAN_FILL`, a NaN narrows to a NaN of the same sign. -/
def Obligations.EveryNanParameterKeepsTheClassAndSign : Prop :=
  ∀ (q : Config.NanQuieting) (fill : BitVec 10), fill ≠ 0#10 →
    (∀ x : Single, binary32.classOf x.toNat = .nan →
      isNaN16 (f2hUnder q fill x) = true ∧ sign16 (f2hUnder q fill x) = x.msb) ∧
    (∀ x : Double, binary64.classOf x.toNat = .nan →
      isNaN16 (d2hUnder q fill x) = true ∧ sign16 (d2hUnder q fill x) = x.msb)

/-- R63: under `LIBRARY_COMPAT` only the NaN case changes: the mantissa is the top 10 source bits with `0x200` set. -/
def Obligations.LibraryCompatNarrowingChangesOnlyNans : Prop :=
  ∀ fill : BitVec 10,
    (∀ x : Single,
      (binary32.classOf x.toNat ≠ .nan → f2hUnder .libraryCompat fill x = f2hUnder .preserve fill x) ∧
      (binary32.classOf x.toNat = .nan →
        f2hUnder .libraryCompat fill x = x.extractLsb' 31 1 ++ 0b11111#5 ++ (0x200#10 ||| x.extractLsb' 13 10))) ∧
    (∀ x : Double,
      (binary64.classOf x.toNat ≠ .nan → d2hUnder .libraryCompat fill x = d2hUnder .preserve fill x) ∧
      (binary64.classOf x.toNat = .nan →
        d2hUnder .libraryCompat fill x = x.extractLsb' 63 1 ++ 0b11111#5 ++ (0x200#10 ||| x.extractLsb' 42 10)))

/-- R61: for every source that is not a NaN, narrowing gives the nearest binary16 pattern, ties to even, with the source's sign; a
magnitude of 65520 or more gives infinity and one of `2^-25` or less gives zero. That infinity counts as `2^16` is log entry 9. -/
def Obligations.NarrowingIsNearestTiesToEven : Prop :=
  (∀ x : Single, binary32.classOf x.toNat ≠ .nan →
    let r := fp32ToFp16Converter x
    let v := binary32.units x.toNat
    Rule.Nearest v r ∧ sign16 r = x.msb ∧
    (65520 * 2 ^ 1074 ≤ v.natAbs → magnitude16 r = 0x7C00) ∧ (v.natAbs ≤ 2 ^ 1049 → magnitude16 r = 0)) ∧
  (∀ x : Double, binary64.classOf x.toNat ≠ .nan →
    let r := fp64ToFp16Converter x
    let v := binary64.units x.toNat
    Rule.Nearest v r ∧ sign16 r = x.msb ∧
    (65520 * 2 ^ 1074 ≤ v.natAbs → magnitude16 r = 0x7C00) ∧ (v.natAbs ≤ 2 ^ 1049 → magnitude16 r = 0))

/-- R62: "D2H rounds once": every discarded bit counts. A source whose rounding bit is set and whose lower discarded bits are not
all zero, however low the set bit is, goes up: in the normal range, `E` from 1009 to 1038, where the 42 low mantissa bits are
discarded, and in the subnormal range, `E` from 998 to 1008, where the low `sh = 1051 - E` bits of the mantissa with its leading 1
explicit are. -/
def Obligations.D2hRoundsOnceOverEveryDiscardedBit : Prop :=
  ∀ x : Double,
    let E := (x.extractLsb' 52 11).toNat
    let F := 2 ^ 52 + (x.extractLsb' 0 52).toNat
    let sh := 1051 - E
    (1009 ≤ E → E ≤ 1038 → x.getLsbD 41 = true → x.extractLsb' 0 41 ≠ 0#41 →
      magnitude16 (fp64ToFp16Converter x) = (E - 1008) * 1024 + (x.extractLsb' 42 10).toNat + 1) ∧
    (998 ≤ E → E ≤ 1008 → F.testBit (sh - 1) = true → F % 2 ^ (sh - 1) ≠ 0 →
      magnitude16 (fp64ToFp16Converter x) = F / 2 ^ sh + 1)

/-- R64: widening then narrowing is the identity on all 65536 patterns, NaNs included, through both paths; under `LIBRARY_COMPAT`
it sets `h[9]` of a NaN and is the identity on the others. -/
def Obligations.WidenThenNarrowIsTheIdentity : Prop :=
  ∀ h : Half,
    fp32ToFp16Converter (fp16ToFp32Converter h) = h ∧ fp64ToFp16Converter (fp16ToFp64Converter h) = h ∧
    ∀ fill : BitVec 10,
      f2hUnder .libraryCompat fill (h2fUnder .libraryCompat h) = (if isNaN16 h then h ||| 0x0200#16 else h) ∧
      d2hUnder .libraryCompat fill (h2dUnder .libraryCompat h) = (if isNaN16 h then h ||| 0x0200#16 else h)

/-- R64 on the wrapper, two steps long: the host issues the widening, feeds `r` back on `a`, and issues the narrowing; the result
bus then carries the pattern it began with. -/
def Obligations.RoundTripThroughTheWrapper : Prop :=
  ∀ (s : State) (h : Half),
    (∃ t, step (s.issue (.h2f h)) = .next t ∧
      ∃ t', step ((t.driveOp 0x2#4).driveA t.r) = .next t' ∧ t'.r = zext64 h) ∧
    (∃ t, step (s.issue (.h2d h)) = .next t ∧
      ∃ t', step ((t.driveOp 0x3#4).driveA t.r) = .next t' ∧ t'.r = zext64 h)

/-! ### Comparison -/

/-- The four codes of R48 are the four outcomes: `a < b`, `a == b`, `a > b` as the numbers of R36, and Unordered where `a` or `b` is
a NaN. That `<` is the order of numbers `Number.less` is log entry 15 (PRESUMED), and their scale is log entry 9. -/
def Obligations.HcmpCodesAreTheFourOutcomes : Prop :=
  ∀ a b : Half,
    let ord := (fp16Comparator a b).ord
    let x := binary16.numberOf a.toNat
    let y := binary16.numberOf b.toNat
    (ord = 0b11#2 ↔ x = none ∨ y = none) ∧
    (∀ p q, x = some p → y = some q →
      (ord = 0b00#2 ↔ p.less q = true) ∧ (ord = 0b01#2 ↔ p = q) ∧ (ord = 0b10#2 ↔ q.less p = true))

/-- R65, the spec's own derived corner cases: HEQ is symmetric, and for operands that are not NaNs it is 1 exactly when their
numbers are equal, `+0 == -0` included. -/
def Obligations.HeqIsEqualityOfNumbers : Prop :=
  ∀ a b : Half,
    (fp16EqualityTester a b).eq = (fp16EqualityTester b a).eq ∧
    (isNaN16 a = false → isNaN16 b = false →
      ((fp16EqualityTester a b).eq = 1#1 ↔ binary16.numberOf a.toNat = binary16.numberOf b.toNat))

/-- R72, its first four laws: NaNs are unordered and unequal; without NaNs exactly one of less, equal and greater holds, HCMP
says which, and the two non-strict operators follow; and the operators swap with their operands. -/
def Obligations.ComparatorLaws : Prop :=
  ∀ a b : Half,
    (isNaN16 a = true ∨ isNaN16 b = true →
      compare16 a b = .unordered ∧ less16 a b = false ∧ lessEqual16 a b = false ∧ greater16 a b = false ∧
      greaterEqual16 a b = false ∧ equal16 a b = false ∧ notEqual16 a b = true) ∧
    (isNaN16 a = false → isNaN16 b = false →
      ((less16 a b = true ∧ equal16 a b = false ∧ greater16 a b = false) ∨
       (less16 a b = false ∧ equal16 a b = true ∧ greater16 a b = false) ∨
       (less16 a b = false ∧ equal16 a b = false ∧ greater16 a b = true)) ∧
      (compare16 a b = .less ↔ less16 a b = true) ∧ (compare16 a b = .equal ↔ equal16 a b = true) ∧
      (compare16 a b = .greater ↔ greater16 a b = true) ∧
      lessEqual16 a b = (less16 a b || equal16 a b) ∧ greaterEqual16 a b = (greater16 a b || equal16 a b)) ∧
    less16 a b = greater16 b a ∧ lessEqual16 a b = greaterEqual16 b a

/-- R72, its last law: every comparison of two binary16 patterns, all seven operations, is the IEEE comparison of the widened binary32 values, and of the
widened binary64 values (the order of numbers that IEEE comparison uses is log entry 15). -/
def Obligations.ComparisonsAgreeWithTheWidenedValues : Prop :=
  ∀ a b : Half,
    Rule.ComparesAs binary32 a b (fp16ToFp32Converter a).toNat (fp16ToFp32Converter b).toNat ∧
    Rule.ComparesAs binary64 a b (fp16ToFp64Converter a).toNat (fp16ToFp64Converter b).toNat
end

