-- ==== Sys2Proof/Laws/State.lean ====
section
/-! SUPPORT. One lemma per field per update of State, so that no proof unfolds a record update, and the small lemmas of the input
ports. -/

namespace Sys2Proof.Machine

variable (s : State) (op : OpCode) (a : Bus) (b : Half) (r : Bus) (i : Bit)

@[simp] theorem State.setOutputs_op : (s.setOutputs r i).op = s.op := rfl
@[simp] theorem State.setOutputs_a : (s.setOutputs r i).a = s.a := rfl
@[simp] theorem State.setOutputs_b : (s.setOutputs r i).b = s.b := rfl
@[simp] theorem State.setOutputs_r : (s.setOutputs r i).r = r := rfl
@[simp] theorem State.setOutputs_illegal : (s.setOutputs r i).illegal = i := rfl
@[simp] theorem State.setOutputs_freeIndex : (s.setOutputs r i).freeIndex = s.freeIndex := rfl

@[simp] theorem State.setUndefinedResult_op : (s.setUndefinedResult i).op = s.op := rfl
@[simp] theorem State.setUndefinedResult_a : (s.setUndefinedResult i).a = s.a := rfl
@[simp] theorem State.setUndefinedResult_b : (s.setUndefinedResult i).b = s.b := rfl
@[simp] theorem State.setUndefinedResult_r : (s.setUndefinedResult i).r = Config.undrivenResult s.freeIndex := rfl
@[simp] theorem State.setUndefinedResult_illegal : (s.setUndefinedResult i).illegal = i := rfl
@[simp] theorem State.setUndefinedResult_freeIndex : (s.setUndefinedResult i).freeIndex = s.freeIndex + 1 := rfl

@[simp] theorem State.setUndefinedOutputs_op : s.setUndefinedOutputs.op = s.op := rfl
@[simp] theorem State.setUndefinedOutputs_a : s.setUndefinedOutputs.a = s.a := rfl
@[simp] theorem State.setUndefinedOutputs_b : s.setUndefinedOutputs.b = s.b := rfl
@[simp] theorem State.setUndefinedOutputs_r : s.setUndefinedOutputs.r = Config.undrivenResult s.freeIndex := rfl
@[simp] theorem State.setUndefinedOutputs_illegal : s.setUndefinedOutputs.illegal = Config.undrivenIllegal s.freeIndex := rfl
@[simp] theorem State.setUndefinedOutputs_freeIndex : s.setUndefinedOutputs.freeIndex = s.freeIndex + 1 := rfl

@[simp] theorem State.driveOp_op : (s.driveOp op).op = .full op := rfl
@[simp] theorem State.driveOp_a : (s.driveOp op).a = s.a := rfl
@[simp] theorem State.driveOp_b : (s.driveOp op).b = s.b := rfl
@[simp] theorem State.driveOp_r : (s.driveOp op).r = s.r := rfl
@[simp] theorem State.driveOp_illegal : (s.driveOp op).illegal = s.illegal := rfl
@[simp] theorem State.driveOp_freeIndex : (s.driveOp op).freeIndex = s.freeIndex := rfl
@[simp] theorem State.driveA_op : (s.driveA a).op = s.op := rfl
@[simp] theorem State.driveA_a : (s.driveA a).a = .full a := rfl
@[simp] theorem State.driveA_b : (s.driveA a).b = s.b := rfl
@[simp] theorem State.driveA_r : (s.driveA a).r = s.r := rfl
@[simp] theorem State.driveA_illegal : (s.driveA a).illegal = s.illegal := rfl
@[simp] theorem State.driveA_freeIndex : (s.driveA a).freeIndex = s.freeIndex := rfl
@[simp] theorem State.driveB_op : (s.driveB b).op = s.op := rfl
@[simp] theorem State.driveB_a : (s.driveB b).a = s.a := rfl
@[simp] theorem State.driveB_b : (s.driveB b).b = .full b := rfl
@[simp] theorem State.driveB_r : (s.driveB b).r = s.r := rfl
@[simp] theorem State.driveB_illegal : (s.driveB b).illegal = s.illegal := rfl
@[simp] theorem State.driveB_freeIndex : (s.driveB b).freeIndex = s.freeIndex := rfl
@[simp] theorem State.driveRequest_op : (s.driveRequest op a b).op = .full op := rfl
@[simp] theorem State.driveRequest_a : (s.driveRequest op a b).a = .full a := rfl
@[simp] theorem State.driveRequest_b : (s.driveRequest op a b).b = .full b := rfl
@[simp] theorem State.driveRequest_r : (s.driveRequest op a b).r = s.r := rfl
@[simp] theorem State.driveRequest_illegal : (s.driveRequest op a b).illegal = s.illegal := rfl
@[simp] theorem State.driveRequest_freeIndex : (s.driveRequest op a b).freeIndex = s.freeIndex := rfl

@[simp] theorem State.floatInputs_op : s.floatInputs.op = .floating 4 := rfl
@[simp] theorem State.floatInputs_a : s.floatInputs.a = .floating 64 := rfl
@[simp] theorem State.floatInputs_b : s.floatInputs.b = .floating 16 := rfl
@[simp] theorem State.floatInputs_r : s.floatInputs.r = s.r := rfl
@[simp] theorem State.floatInputs_illegal : s.floatInputs.illegal = s.illegal := rfl
@[simp] theorem State.floatInputs_freeIndex : s.floatInputs.freeIndex = s.freeIndex := rfl

/-- A later request leaves no trace of an earlier one on the input ports. -/
@[simp] theorem State.driveRequest_driveRequest (op' : OpCode) (a' : Bus) (b' : Half) :
    (s.driveRequest op a b).driveRequest op' a' b' = s.driveRequest op' a' b' := rfl

@[simp] theorem InPort.full_value {w : Nat} (v : BitVec w) : (InPort.full v).value = v := rfl
@[simp] theorem InPort.full_driven {w : Nat} (v : BitVec w) : (InPort.full v).driven = BitVec.allOnes w := rfl

@[simp] theorem InPort.full_low {w : Nat} (v : BitVec w) (n : Nat) : (InPort.full v).low n = v.setWidth n := rfl

/-- Every low part of a fully driven port is driven. -/
theorem InPort.full_lowDriven {w n : Nat} (v : BitVec w) (h : n ≤ w) : (InPort.full v).lowDriven n = true := by
  rw [InPort.lowDriven, beq_iff_eq]
  ext i hi
  simp [Nat.lt_of_lt_of_le hi h]

@[simp] theorem State.requestedCode_driveRequest : (s.driveRequest op a b).requestedCode = some op := by
  have h : (InPort.full op).lowDriven 4 = true := InPort.full_lowDriven op (Nat.le_refl 4)
  simp [State.requestedCode, h]

@[simp] theorem State.requestedCode_driveOp : (s.driveOp op).requestedCode = some op := by
  have h : (InPort.full op).lowDriven 4 = true := InPort.full_lowDriven op (Nat.le_refl 4)
  simp [State.requestedCode, h]

/-- The code depends on the port `op` alone. -/
theorem State.requestedCode_congr {s t : State} (h : s.op = t.op) : s.requestedCode = t.requestedCode := by
  simp [State.requestedCode, h]

end Sys2Proof.Machine
end

