-- ==== Sys2Proof/Laws/Operands.lean ====
section
/-! SUPPORT. What the two shared shapes of an operation, `answerOne` and `answerTwo`, can do: said once, so that no proof about an
instruction unfolds them. -/

namespace Sys2Proof.Machine

theorem answerOne_driven {n : Nat} {f : BitVec n → Bus} {s : State} (h : s.a.lowDriven n = true) :
    answerOne n f s = .next (s.setOutputs (f (s.a.low n)) 0#1) := by
  simp [answerOne, h, illegalOfDefined]

theorem answerOne_undriven {n : Nat} {f : BitVec n → Bus} {s : State} (h : s.a.lowDriven n = false) :
    answerOne n f s = .next (s.setUndefinedResult 0#1) := by
  simp [answerOne, h, illegalOfDefined]

theorem answerTwo_driven {f : Half → Half → Bus} {s : State} (ha : s.a.lowDriven 16 = true) (hb : s.b.lowDriven 16 = true) :
    answerTwo f s = .next (s.setOutputs (f (s.a.low 16) (s.b.low 16)) 0#1) := by
  simp [answerTwo, ha, hb, illegalOfDefined]

theorem answerTwo_undriven {f : Half → Half → Bus} {s : State} (h : (s.a.lowDriven 16 && s.b.lowDriven 16) = false) :
    answerTwo f s = .next (s.setUndefinedResult 0#1) := by
  simp [answerTwo, h, illegalOfDefined]

/-- Everything `answerOne` can do. -/
theorem answerOne_cases {n : Nat} {f : BitVec n → Bus} {s t : State} (h : answerOne n f s = .next t) :
    (s.a.lowDriven n = true ∧ t = s.setOutputs (f (s.a.low n)) 0#1) ∨
    (s.a.lowDriven n = false ∧ t = s.setUndefinedResult 0#1) := by
  cases hd : s.a.lowDriven n with
  | true => rw [answerOne_driven hd] at h; cases h; exact .inl ⟨rfl, rfl⟩
  | false => rw [answerOne_undriven hd] at h; cases h; exact .inr ⟨rfl, rfl⟩

/-- Everything `answerTwo` can do. -/
theorem answerTwo_cases {f : Half → Half → Bus} {s t : State} (h : answerTwo f s = .next t) :
    ((s.a.lowDriven 16 && s.b.lowDriven 16) = true ∧ t = s.setOutputs (f (s.a.low 16) (s.b.low 16)) 0#1) ∨
    ((s.a.lowDriven 16 && s.b.lowDriven 16) = false ∧ t = s.setUndefinedResult 0#1) := by
  cases hd : s.a.lowDriven 16 && s.b.lowDriven 16 with
  | true =>
    obtain ⟨ha, hb⟩ := Bool.and_eq_true_iff.mp hd
    rw [answerTwo_driven ha hb] at h; cases h; exact .inl ⟨rfl, rfl⟩
  | false => rw [answerTwo_undriven hd] at h; cases h; exact .inr ⟨rfl, rfl⟩

end Sys2Proof.Machine
end

