-- ==== Sys2Proof/Laws/Ops.lean ====
section
/-! SUPPORT. The small lemmas of the pseudocode primitives and of the format fields. -/

namespace Sys2Proof.Machine

theorem bits_lt (v hi lo : Nat) : bits v hi lo < 2 ^ (hi + 1 - lo) := Nat.mod_lt _ (Nat.two_pow_pos _)

theorem bits_zero_low (v hi : Nat) : bits v hi 0 = v % 2 ^ (hi + 1) := by simp [bits]

theorem bit_eq_testBit (v i : Nat) : bit v i = v.testBit i := by
  rw [bit, bits, Nat.testBit_eq_decide_div_mod_eq, show i + 1 - i = 1 by omega]
  simp only [Nat.pow_one, beq_eq_decide]

theorem lowBits_lt (v n : Nat) : lowBits v n < 2 ^ n := Nat.mod_lt _ (Nat.two_pow_pos n)

@[simp] theorem orReduce_eq_true (v : Nat) : orReduce v = true ↔ v ≠ 0 := by simp [orReduce]

theorem concat_lt {p q wp wq : Nat} (hp : p < 2 ^ wp) (hq : q < 2 ^ wq) : concat p q wq < 2 ^ (wp + wq) := by
  have : (p + 1) * 2 ^ wq ≤ 2 ^ wp * 2 ^ wq := Nat.mul_le_mul_right _ hp
  rw [concat, Nat.pow_add]
  linarith [Nat.add_mul p 1 (2 ^ wq)]

/-- The upper part of a concatenation. -/
theorem concat_div {q wq : Nat} (p : Nat) (hq : q < 2 ^ wq) : concat p q wq / 2 ^ wq = p := by
  rw [concat, Nat.add_comm, Nat.add_mul_div_right _ _ (Nat.two_pow_pos wq), Nat.div_eq_of_lt hq, Nat.zero_add]

/-- The lower part of a concatenation. -/
theorem concat_mod {q wq : Nat} (p : Nat) (hq : q < 2 ^ wq) : concat p q wq % 2 ^ wq = q := by
  rw [concat, Nat.add_comm, Nat.add_mul_mod_self_right, Nat.mod_eq_of_lt hq]

/-- Rounding keeps the retained bits or adds one to them. -/
theorem roundNearestEven_eq (v sh : Nat) :
    roundNearestEven v sh = v / 2 ^ sh ∨ roundNearestEven v sh = v / 2 ^ sh + 1 := by
  simp only [roundNearestEven]
  cases bit v (sh - 1) && (orReduce (lowBits v (sh - 1)) || bit (v / 2 ^ sh) 0) <;> simp

theorem FloatFormat.exponent_lt (f : FloatFormat) (x : Nat) (h : 0 < f.ew) : f.exponent x < 2 ^ f.ew := by
  have := bits_lt x (f.ew + f.mw - 1) f.mw
  rwa [show f.ew + f.mw - 1 + 1 - f.mw = f.ew by omega] at this

theorem FloatFormat.mantissa_lt (f : FloatFormat) (x : Nat) (h : 0 < f.mw) : f.mantissa x < 2 ^ f.mw := by
  have := bits_lt x (f.mw - 1) 0
  rwa [show f.mw - 1 + 1 - 0 = f.mw by omega] at this

theorem FloatFormat.sign_lt (f : FloatFormat) (x : Nat) : f.sign x < 2 := by
  have := bits_lt x (f.ew + f.mw) (f.ew + f.mw)
  rwa [show f.ew + f.mw + 1 - (f.ew + f.mw) = 1 by omega] at this

theorem magnitude16_eq (h : Half) : magnitude16 h = h.toNat % 2 ^ 15 := bits_zero_low _ 14

theorem sign16_eq_msb (h : Half) : sign16 h = h.msb := by
  rw [sign16, bit_eq_testBit, BitVec.msb_eq_getLsbD_last]; rfl

end Sys2Proof.Machine
end

