-- ==== Sys2Proof/Laws/PerInstr.lean ====
section
/-! SUPPORT. Statements about every instruction as syntax, one lemma per constructor. -/

namespace Sys2Proof.Laws.Encoding

/-- The code of an instruction is one that a model accepts, exactly one row of the operation map matches it, and that row bears
the instruction's mnemonic (spec/30_encoding.md R44, R45). -/
def Statement (i : Instr) : Prop :=
  i.wellFormed = true ∧ codeAccepted (encode i) = true ∧
    (opcodeTable.filter (·.hits (encode i))).map (·.mnemonic) = [i.mnemonic]

theorem h2f : Statement .h2f := by unfold Statement; decide
theorem h2d : Statement .h2d := by unfold Statement; decide
theorem f2h : Statement .f2h := by unfold Statement; decide
theorem d2h : Statement .d2h := by unfold Statement; decide
theorem heq : Statement .heq := by unfold Statement; decide
theorem hne : Statement .hne := by unfold Statement; decide
theorem hcmp : Statement .hcmp := by unfold Statement; decide
theorem hlt : Statement .hlt := by unfold Statement; decide
theorem hle : Statement .hle := by unfold Statement; decide
theorem hgt : Statement .hgt := by unfold Statement; decide
theorem hge : Statement .hge := by unfold Statement; decide

end Sys2Proof.Laws.Encoding
end

