-- ==== Sys2Proof/Laws/Step.lean ====
section
/-! SUPPORT. What a step can do, said once: the inversion lemmas of `exec` and `step`. -/

namespace Sys2Proof.Machine

/-! ### The shape of each instruction -/

theorem exec_h2f (s : State) : exec .h2f s = answerOne 16 (fun a => zext64 (fp16ToFp32Converter a)) s := rfl
theorem exec_h2d (s : State) : exec .h2d s = answerOne 16 (fun a => fp16ToFp64Converter a) s := rfl
theorem exec_f2h (s : State) : exec .f2h s = answerOne 32 (fun a => zext64 (fp32ToFp16Converter a)) s := rfl
theorem exec_d2h (s : State) : exec .d2h s = answerOne 64 (fun a => zext64 (fp64ToFp16Converter a)) s := rfl
theorem exec_heq (s : State) : exec .heq s = answerTwo (fun a b => zext64 (fp16EqualityTester a b).eq) s := rfl
theorem exec_hne (s : State) : exec .hne s = answerTwo (fun a b => zext64 (fp16EqualityTester a b).ne) s := rfl
theorem exec_hcmp (s : State) : exec .hcmp s = answerTwo (fun a b => zext64 (fp16Comparator a b).ord) s := rfl
theorem exec_hlt (s : State) : exec .hlt s = answerTwo (fun a b => zext64 (fp16Comparator a b).lt) s := rfl
theorem exec_hle (s : State) : exec .hle s = answerTwo (fun a b => zext64 (fp16Comparator a b).le) s := rfl
theorem exec_hgt (s : State) : exec .hgt s = answerTwo (fun a b => zext64 (fp16Comparator a b).gt) s := rfl
theorem exec_hge (s : State) : exec .hge s = answerTwo (fun a b => zext64 (fp16Comparator a b).ge) s := rfl

/-! ### Inversion -/

/-- Everything an instruction can do: drive a result and `illegal = 0`, or leave the result free. -/
theorem exec_cases {i : Instr} {s t : State} (h : exec i s = .next t) :
    (operandsDriven i s = true ∧ ∃ r, t = s.setOutputs r 0#1) ∨
    (operandsDriven i s = false ∧ t = s.setUndefinedResult 0#1) := by
  cases i
  case h2f | h2d | f2h | d2h =>
    simp only [exec_h2f, exec_h2d, exec_f2h, exec_d2h] at h
    exact (answerOne_cases h).imp (fun ⟨hd, ht⟩ => ⟨hd, _, ht⟩) id
  case heq | hne | hcmp | hlt | hle | hgt | hge =>
    simp only [exec_heq, exec_hne, exec_hcmp, exec_hlt, exec_hle, exec_hgt, exec_hge] at h
    exact (answerTwo_cases h).imp (fun ⟨hd, ht⟩ => ⟨hd, _, ht⟩) id

theorem step_undriven {s : State} (h : s.requestedCode = none) : step s = .next s.setUndefinedOutputs := by
  simp [step, h]

theorem step_refused {s : State} {op bad : OpCode} (h : s.requestedCode = some op) (hd : decode op = .error (.reservedCode bad)) :
    step s = .refused (.reservedCode bad) := by
  simp [step, h, hd]

/-- Everything a step that answers a next state can do. -/
theorem step_cases {s t : State} (h : step s = .next t) :
    (s.requestedCode = none ∧ t = s.setUndefinedOutputs) ∨
    ∃ op i, s.requestedCode = some op ∧ decode op = .ok i ∧ exec i s = .next t := by
  unfold step at h
  split at h
  · cases h; exact .inl ⟨‹_›, rfl⟩
  · split at h
    · exact .inr ⟨_, _, ‹_›, ‹_›, h⟩
    · cases h

end Sys2Proof.Machine
end

