-- ==== Sys2Proof/Tests/Slice0.lean ====
section
/-! SUPPORT. The model's own tests: expected values are rows of spec/95_test_vectors.md (their ids stand beside them) or the worked
examples of the rules, never the model's own answers. Then the witnesses of the hypotheses of the statements. -/

namespace Sys2Proof.Tests

open Sys2Proof.Machine Sys2Proof.Safety

/-- The ports after power-up, with a request on them. -/
def requested (op : OpCode) (a : Bus) (b : Half) : State := State.reset.driveRequest op a b

/-- The outputs after one step; none where the step is refused. -/
def outputs (s : State) : Option (Bus × Bit) :=
  match step s with
  | .next t    => some (t.r, t.illegal)
  | .fault _   => none
  | .refused _ => none

/-- The code that a step refuses. -/
def refusedCode (s : State) : Option OpCode :=
  match step s with
  | .refused (.reservedCode op) => some op
  | _ => none

/-! ### Well-formedness and decoding: the codes are written out from R44's `op` column -/

theorem test_reserved_codes_are_ill_formed :
    (codeAccepted 0b1011#4 || codeAccepted 0b1100#4 || codeAccepted 0b1101#4 || codeAccepted 0b1110#4 ||
      codeAccepted 0b1111#4) = false := by decide

theorem test_last_defined_code_is_accepted : codeAccepted 0b1010#4 = true := by decide

theorem test_decode_h2f : decode 0b0000#4 = .ok .h2f := by decide
theorem test_decode_h2d : decode 0b0001#4 = .ok .h2d := by decide
theorem test_decode_f2h : decode 0b0010#4 = .ok .f2h := by decide
theorem test_decode_d2h : decode 0b0011#4 = .ok .d2h := by decide
theorem test_decode_heq : decode 0b0100#4 = .ok .heq := by decide
theorem test_decode_hne : decode 0b0101#4 = .ok .hne := by decide
theorem test_decode_hcmp : decode 0b0110#4 = .ok .hcmp := by decide
theorem test_decode_hlt : decode 0b0111#4 = .ok .hlt := by decide
theorem test_decode_hle : decode 0b1000#4 = .ok .hle := by decide
theorem test_decode_hgt : decode 0b1001#4 = .ok .hgt := by decide
theorem test_decode_hge : decode 0b1010#4 = .ok .hge := by decide
theorem test_decode_first_reserved : decode 0b1011#4 = .error (.reservedCode 0b1011#4) := by decide

/-- No code matches two rows of the operation map. -/
theorem test_rows_do_not_overlap :
    opcodeTable.Pairwise (fun x y => x.pattern &&& (x.mask &&& y.mask) ≠ y.pattern &&& (x.mask &&& y.mask)) := by decide

/-! ### One step of each instruction -/

/-- TW8: the largest subnormal. -/
theorem test_h2f_subnormal : outputs (requested 0x0 0x03FF 0) = some (0x387FC000#64, 0#1) := by decide
/-- TP5 step 1: the bits of `a` above 15 and `b` are ignored. -/
theorem test_h2f_unread_bits : outputs (requested 0x0 0xFFFFFFFFFFFF0001 0xFFFF) = some (0x33800000#64, 0#1) := by decide
/-- TW22: a negative NaN keeps sign and payload, unquieted. -/
theorem test_h2d_nan : outputs (requested 0x1 0xFC01 0) = some (0xFFF0040000000000#64, 0#1) := by decide
/-- TW6. -/
theorem test_h2d_subnormal : outputs (requested 0x1 0x0003 0) = some (0x3E88000000000000#64, 0#1) := by decide
/-- TF13: the tie above the largest subnormal carries to the smallest normal. -/
theorem test_f2h_carry : outputs (requested 0x2 0x387FE000 0) = some (0x0400#64, 0#1) := by decide
/-- TF9, spec/90_conflicts.md C2: the rounding rule wins over the source's example. -/
theorem test_f2h_conflict_c2 : outputs (requested 0x2 0x33C00000 0) = some (0x0002#64, 0#1) := by decide
/-- TD14: only the lowest discarded bit is set beside the rounding bit (R62). -/
theorem test_d2h_rounds_once : outputs (requested 0x3 0x3FF0020000000001 0) = some (0x3C01#64, 0#1) := by decide
/-- TD26: the top payload bits are zero, so `NARROW_NAN_FILL`. -/
theorem test_d2h_nan_fill : outputs (requested 0x3 0x7FF0000000000001 0) = some (0x7E00#64, 0#1) := by decide
/-- TC1: the two zeros are equal. -/
theorem test_heq_zeros : outputs (requested 0x4 0x0000 0x8000) = some (1#64, 0#1) := by decide
/-- TC20: a NaN is not equal to itself. -/
theorem test_heq_nan : outputs (requested 0x4 0x7E00 0x7E00) = some (0#64, 0#1) := by decide
/-- TC21. -/
theorem test_hne_nan : outputs (requested 0x5 0x3C00 0x7E00) = some (1#64, 0#1) := by decide
/-- TC2. -/
theorem test_hne_zeros : outputs (requested 0x5 0x8000 0x0000) = some (0#64, 0#1) := by decide
/-- TC24: Unordered. -/
theorem test_hcmp_unordered : outputs (requested 0x6 0xFFFF 0x0000) = some (0b11#64, 0#1) := by decide
/-- TC14: -1 is greater than -2. -/
theorem test_hcmp_negatives : outputs (requested 0x6 0xBC00 0xC000) = some (0b10#64, 0#1) := by decide
/-- TC10. -/
theorem test_hlt_below_zero : outputs (requested 0x7 0x8001 0x0000) = some (1#64, 0#1) := by decide
/-- TC2: no false strict inequality between the zeros. -/
theorem test_hlt_zeros : outputs (requested 0x7 0x8000 0x0000) = some (0#64, 0#1) := by decide
/-- TC1. -/
theorem test_hle_zeros : outputs (requested 0x8 0x0000 0x8000) = some (1#64, 0#1) := by decide
/-- TC23. -/
theorem test_hle_nan : outputs (requested 0x8 0xFC01 0xFC01) = some (0#64, 0#1) := by decide
/-- TC18: infinity above the largest finite value. -/
theorem test_hgt_infinity : outputs (requested 0x9 0x7C00 0x7BFF) = some (1#64, 0#1) := by decide
/-- TC1. -/
theorem test_hgt_zeros : outputs (requested 0x9 0x0000 0x8000) = some (0#64, 0#1) := by decide
/-- TC2. -/
theorem test_hge_zeros : outputs (requested 0xA 0x8000 0x0000) = some (1#64, 0#1) := by decide
/-- TC10. -/
theorem test_hge_below_zero : outputs (requested 0xA 0x8001 0x0000) = some (0#64, 0#1) := by decide

/-! ### The rest of the model -/

/-- TR2: the outputs of the wrapper for a reserved code, and the model's refusal (R45). -/
theorem test_reserved_outputs : halfCore 0xF 0xFFFFFFFFFFFFFFFF 0xFFFF = ⟨0#64, 1#1⟩ := by decide
theorem test_reserved_refused : refusedCode (requested 0xC 0x33800000 0) = some 0xC#4 := by decide

/-- TL1 to TL5: the `LIBRARY_COMPAT` variant (R55, R63). -/
theorem test_library_compat_h2f : h2fUnder .libraryCompat 0x7C01 = 0x7FC02000#32 := by decide
theorem test_library_compat_h2d : h2dUnder .libraryCompat 0x7C01 = 0x7FF8040000000000#64 := by decide
theorem test_library_compat_f2h : f2hUnder .libraryCompat 0x200 0x7F802000 = 0x7E01#16 := by decide
theorem test_library_compat_d2h : d2hUnder .libraryCompat 0x200 0x7FF0040000000000 = 0x7E01#16 := by decide

/-- R42: the landmark patterns, in units of `2^-1074`. -/
theorem test_value_largest_finite : binary16.numberOf 0x7BFF = some (.finite (65504 * 2 ^ 1074)) := by decide +kernel
theorem test_value_smallest_subnormal : binary16.numberOf 0x8001 = some (.finite (-(2 ^ (1074 - 24)))) := by decide +kernel
/-- TE5: 1.0 in the three formats. -/
theorem test_value_one : binary16.units 0x3C00 = 2 ^ 1074 ∧ binary32.units 0x3F800000 = 2 ^ 1074 ∧
    binary64.units 0x3FF0000000000000 = 2 ^ 1074 := by decide +kernel

/-- The examples of R49. -/
theorem test_request_text_narrow : (Request.d2h 0x3FF0000000000000).text = "D2H 0x3FF0000000000000" := by decide
theorem test_request_text_compare : (Request.hlt 0x3C00 0x4000).text = "HLT 0x3C00, 0x4000" := by decide

/-- R85: with no operand driven, `illegal` is 0 all the same, and a floating bit that is not read spoils nothing. -/
theorem test_undriven_operand_illegal : (outputs ((State.reset.withFetchWord 8 0x0))).map (·.2) = some 0#1 := by decide
theorem test_floating_unread_bits :
    outputs { (State.reset.driveOp 0x0) with a := ⟨0x3C00#64, 0xFFFF#64⟩ } = some (0x3F800000#64, 0#1) := by decide

/-- After reset no code is requested. -/
theorem test_reset_requests_nothing : State.reset.requestedCode = none := by decide

/-! ### Witnesses: a state and operands that meet the hypotheses of each statement, at the boundaries where it has clauses -/

theorem witness_StepRunsTheDecodedInstruction :
    (requested 0xA 0 0).requestedCode = some 0xA#4 ∧ decode 0xA#4 = .ok .hge := by decide
theorem witness_DecodeAndEncodeAgree : decode 0xA#4 = .ok .hge ∧ codeAccepted 0xB#4 = false := by decide
theorem witness_ReservedCodes_first :
    0xB ≤ (0xB#4).toNat ∧ (requested 0xB 0 0).requestedCode = some 0xB#4 ∧ codeAccepted 0x0#4 = true := by decide
theorem witness_ReservedCodes_last :
    0xB ≤ (0xF#4).toNat ∧ (requested 0xF 0 0).requestedCode = some 0xF#4 ∧ codeAccepted 0xA#4 = true := by decide
theorem witness_H2fAnswers :
    (requested 0x0 0x0001 0).a.lowDriven 16 = true ∧ (requested 0x0 0x0001 0).requestedCode = some 0x0#4 := by decide
theorem witness_H2dAnswers :
    (requested 0x1 0x0001 0).a.lowDriven 16 = true ∧ (requested 0x1 0x0001 0).requestedCode = some 0x1#4 := by decide
theorem witness_F2hAnswers :
    (requested 0x2 0x33000001 0).a.lowDriven 32 = true ∧ (requested 0x2 0x33000001 0).requestedCode = some 0x2#4 := by decide
theorem witness_F2hAnswers_infinity_boundary :
    (0x477FF000#32).extractLsb' 23 8 = 142#8 ∧ 0x7FF000#23 ≤ (0x477FF000#32).extractLsb' 0 23 := by decide
theorem witness_F2hAnswers_finite_boundary :
    (0x477FEFFF#32).extractLsb' 23 8 = 142#8 ∧ ¬ 0x7FF000#23 ≤ (0x477FEFFF#32).extractLsb' 0 23 := by decide
theorem witness_D2hAnswers :
    (requested 0x3 0x3E60000000000001 0).a.lowDriven 64 = true ∧
      (requested 0x3 0x3E60000000000001 0).requestedCode = some 0x3#4 := by decide
theorem witness_D2hAnswers_infinity_boundary :
    (0x40EFFE0000000000#64).extractLsb' 52 11 = 1038#11 ∧
      0xFFE0000000000#52 ≤ (0x40EFFE0000000000#64).extractLsb' 0 52 := by decide
theorem witness_D2hAnswers_finite_boundary :
    (0x40EFFDFFFFFFFFFF#64).extractLsb' 52 11 = 1038#11 ∧
      ¬ 0xFFE0000000000#52 ≤ (0x40EFFDFFFFFFFFFF#64).extractLsb' 0 52 := by decide

/-- The seven comparisons share their hypotheses. -/
theorem witness_comparisons :
    let s (op : OpCode) := requested op 0x8001 0x0000
    (s 0x4).a.lowDriven 16 = true ∧ (s 0x4).b.lowDriven 16 = true ∧ (s 0x4).requestedCode = some 0x4#4 ∧
      (s 0x5).requestedCode = some 0x5#4 ∧ (s 0x6).requestedCode = some 0x6#4 ∧ (s 0x7).requestedCode = some 0x7#4 ∧
      (s 0x8).requestedCode = some 0x8#4 ∧ (s 0x9).requestedCode = some 0x9#4 ∧
      (s 0xA).requestedCode = some 0xA#4 := by decide
/-- TC1, TC20: HEQ and HNE have operands on both sides. -/
theorem witness_HeqAnswers_holds : Rule.eqHolds 0x0000 0x8000 := by unfold Rule.eqHolds Rule.nan Rule.zeros; decide
theorem witness_HeqAnswers_fails : ¬ Rule.eqHolds 0x7E00 0x7E00 := by unfold Rule.eqHolds Rule.nan Rule.zeros; decide
/-- TC22, TC8, TC1, TC13: the outcomes of HCMP. -/
theorem witness_HcmpAnswers_unordered : Rule.nan 0x7C01 ∧ ¬ Rule.nan 0x7C00 := by unfold Rule.nan; decide
theorem witness_HcmpAnswers_less : Rule.cmpLess 0x3C00 0x4000 := by show Rule.mag 0x3C00 < Rule.mag 0x4000; decide
theorem witness_HcmpAnswers_equal : Rule.cmpEqual 0x0000 0x8000 := by show Rule.zeros 0x0000 0x8000; unfold Rule.zeros; decide
theorem witness_HcmpAnswers_greater : ¬ Rule.cmpLess 0x4000 0x3C00 ∧ ¬ Rule.cmpEqual 0x4000 0x3C00 := by
  constructor
  · show ¬ Rule.mag 0x4000 < Rule.mag 0x3C00; decide
  · show ¬ Rule.mag 0x4000 = Rule.mag 0x3C00; decide
/-- TC10, TC2: HLT has operands on both sides. -/
theorem witness_HltAnswers : Rule.ltHolds 0x8001 0x0000 ∧ ¬ Rule.ltHolds 0x8000 0x0000 := by
  constructor
  · show ¬ Rule.nan 0x8001 ∧ ¬ Rule.nan 0x0000 ∧ ¬ Rule.zeros 0x8001 0x0000; unfold Rule.nan Rule.zeros; decide
  · show ¬ (¬ Rule.nan 0x8000 ∧ ¬ Rule.nan 0x0000 ∧ ¬ Rule.zeros 0x8000 0x0000); unfold Rule.nan Rule.zeros; decide
/-- TC1, R69's corner case. -/
theorem witness_HleAnswers : Rule.leHolds 0x0000 0x8000 ∧ ¬ Rule.leHolds 0x0001 0x8000 := by
  constructor
  · show ¬ Rule.nan 0x0000 ∧ ¬ Rule.nan 0x8000 ∧ Rule.zeros 0x0000 0x8000; unfold Rule.nan Rule.zeros; decide
  · show ¬ (¬ Rule.nan 0x0001 ∧ ¬ Rule.nan 0x8000 ∧ Rule.zeros 0x0001 0x8000); unfold Rule.nan Rule.zeros; decide
/-- TC15, TC1. -/
theorem witness_HgtAnswers : Rule.gtHolds 0x0000 0x8001 ∧ ¬ Rule.gtHolds 0x0000 0x8000 := by
  constructor
  · show ¬ Rule.nan 0x0000 ∧ ¬ Rule.nan 0x8001 ∧ ¬ Rule.zeros 0x0000 0x8001; unfold Rule.nan Rule.zeros; decide
  · show ¬ (¬ Rule.nan 0x0000 ∧ ¬ Rule.nan 0x8000 ∧ ¬ Rule.zeros 0x0000 0x8000); unfold Rule.nan Rule.zeros; decide
/-- TC2, TC10. -/
theorem witness_HgeAnswers : Rule.geHolds 0x8000 0x0000 ∧ ¬ Rule.geHolds 0x8001 0x0000 := by
  constructor
  · show ¬ Rule.nan 0x8000 ∧ ¬ Rule.nan 0x0000 ∧ Rule.zeros 0x8000 0x0000; unfold Rule.nan Rule.zeros; decide
  · show ¬ (¬ Rule.nan 0x8001 ∧ ¬ Rule.nan 0x0000 ∧ Rule.zeros 0x8001 0x0000); unfold Rule.nan Rule.zeros; decide

/-- A state in which `a[15:0]` alone is driven beside the code of H2F: every bit H2F reads, and no other. -/
def readBitsOnly : State := { (State.reset.driveOp 0x0) with a := ⟨0x3C00#64, 0xFFFF#64⟩ }

theorem witness_StepComputesTheWrapperFunction :
    readBitsOnly.requestedCode = some (encode .h2f) ∧ Rule.ReadsDriven .h2f readBitsOnly := by
  unfold Rule.ReadsDriven; decide
theorem witness_StepComputesTheWrapperFunction_reserved :
    (requested 0xB 0 0).requestedCode = some 0xB#4 ∧ codeAccepted 0xB#4 = false := by decide
theorem witness_OnlyTheBitsReadMatter :
    readBitsOnly.requestedCode = some (encode .h2f) ∧ (requested 0x0 0xFFFFFFFFFFFF3C00 0xFFFF).requestedCode = some (encode .h2f) ∧
      Rule.ReadsDriven .h2f readBitsOnly ∧ Rule.ReadsDriven .h2f (requested 0x0 0xFFFFFFFFFFFF3C00 0xFFFF) ∧
      Rule.SameReads .h2f readBitsOnly (requested 0x0 0xFFFFFFFFFFFF3C00 0xFFFF) := by
  unfold Rule.ReadsDriven Rule.SameReads; decide
theorem witness_ResultsAreZeroExtended : operandsDriven .h2f readBitsOnly = true := by decide
theorem witness_InstructionsChangeOnlyTheOutputs : ∃ t, exec .h2f readBitsOnly = .next t ∧ operandsDriven .h2f readBitsOnly = true :=
  ⟨_, (exec_h2f readBitsOnly).trans (answerOne_driven (by decide)), by decide⟩
theorem witness_EvaluatingAgainChangesNothing :
    readBitsOnly.requestedCode = some (encode .h2f) ∧ operandsDriven .h2f readBitsOnly = true ∧
      ∃ t, step readBitsOnly = .next t := ⟨by decide, by decide, _, rfl⟩
theorem witness_FirstRequestAnswersLikeAnyOther : codeAccepted 0xA#4 = true := by decide
theorem witness_UndrivenOperandsLeaveTheResultFree : ¬ Rule.ReadsDriven .f2h readBitsOnly := by
  unfold Rule.ReadsDriven; decide
theorem witness_UndrivenCodeLeavesBothOutputsFree : State.reset.op.driven ≠ BitVec.allOnes 4 := by decide
theorem witness_StepKeepsOutputsMatchingInputs : OutputsMatchInputs State.reset ∧ ∃ t, step State.reset = .next t :=
  ⟨fun op _ h => absurd h (by rw [test_reset_requests_nothing]; exact nofun), _, step_undriven test_reset_requests_nothing⟩
/-- A state with the invariant in which the premise of the invariant is met: its outputs are those of R52's example. -/
theorem witness_StepKeepsOutputsMatchingInputs_driven :
    readBitsOnly.requestedCode = some 0x0#4 ∧ decode 0x0#4 = .ok .h2f ∧ operandsDriven .h2f readBitsOnly = true ∧
      (halfCore 0x0#4 readBitsOnly.a.value readBitsOnly.b.value).r = 0x3F800000#64 := by decide
theorem witness_AcceptedRequestsNeverStop : Accepted readBitsOnly ∧ ∃ t, core.run 1 readBitsOnly = .next t :=
  ⟨fun op h => by rw [show readBitsOnly.requestedCode = some 0x0#4 by decide] at h; cases h; decide, _, rfl⟩
theorem witness_RoundingIsNearestTiesToEven : 1 ≤ 13 ∧ 2 * ((0x801000 : Int) - 0x400 * 2 ^ 13).natAbs = 2 ^ 13 := by decide
theorem witness_RoundingCarryStopsAtInfinity :
    binary32.classOf (0x477FF000#32).toNat ≠ .nan ∧ binary64.classOf (0x40EFFE0000000000#64).toNat ≠ .nan := by decide
theorem witness_NormalisationLoop_first : 0 < 1 ∧ 1 < 1024 := by decide
theorem witness_NormalisationLoop_last : 0 < 1023 ∧ 1023 < 1024 := by decide
theorem witness_WidenedNumbersAreNormal : class16 0x03FF = .subnormal ∧ class16 0x0400 = .normal := by decide
theorem witness_WideningIsExactAndInjective : isNaN16 0x7C01 = true ∧ isNaN16 0x7C00 = false := by decide
theorem witness_LibraryCompatWidening :
    isNaN16 0x7C00 = false ∧ isNaN16 0x7C01 = true ∧ isNaN16 0x7E00 = true ∧ (0x7E00#16).getLsbD 9 = true := by decide
theorem witness_NansNarrowToNans :
    binary32.classOf (0x7F800001#32).toNat = .nan ∧ binary64.classOf (0x7FF0040000000000#64).toNat = .nan := by decide
theorem witness_EveryNanParameter :
    (1#10 : BitVec 10) ≠ 0#10 ∧ binary32.classOf (0xFF800001#32).toNat = .nan ∧
      binary64.classOf (0xFFF0000000000001#64).toNat = .nan := by decide
theorem witness_LibraryCompatNarrowing :
    binary32.classOf (0x7F800000#32).toNat ≠ .nan ∧ binary32.classOf (0x7F802000#32).toNat = .nan ∧
      binary64.classOf (0x7FF0000000000000#64).toNat ≠ .nan ∧ binary64.classOf (0x7FF0040000000000#64).toNat = .nan := by decide
theorem witness_NarrowingIsNearest_infinity_boundary :
    binary32.classOf (0x477FF000#32).toNat ≠ .nan ∧ 65520 * 2 ^ 1074 ≤ (binary32.units (0x477FF000#32).toNat).natAbs := by decide +kernel
theorem witness_NarrowingIsNearest_zero_boundary :
    binary64.classOf (0x3E60000000000000#64).toNat ≠ .nan ∧
      (binary64.units (0x3E60000000000000#64).toNat).natAbs ≤ 2 ^ 1049 := by decide +kernel
theorem witness_D2hRoundsOnce_normal :
    1009 ≤ ((0x3FF0020000000001#64).extractLsb' 52 11).toNat ∧ ((0x3FF0020000000001#64).extractLsb' 52 11).toNat ≤ 1038 ∧
      (0x3FF0020000000001#64).getLsbD 41 = true ∧ (0x3FF0020000000001#64).extractLsb' 0 41 ≠ 0#41 := by decide
/-- TD7: `E = 998`, the lowest of the subnormal range, where the rounding bit is the leading 1 itself. -/
theorem witness_D2hRoundsOnce_subnormal_first :
    let x := 0x3E60000000000001#64
    let F := 2 ^ 52 + (x.extractLsb' 0 52).toNat
    (x.extractLsb' 52 11).toNat = 998 ∧ F.testBit (1051 - 998 - 1) = true ∧ F % 2 ^ (1051 - 998 - 1) ≠ 0 := by decide
/-- `E = 1008`, the highest of the subnormal range: one above the tie of TD11. -/
theorem witness_D2hRoundsOnce_subnormal_last :
    let x := 0x3F0FFC0000000001#64
    let F := 2 ^ 52 + (x.extractLsb' 0 52).toNat
    (x.extractLsb' 52 11).toNat = 1008 ∧ F.testBit (1051 - 1008 - 1) = true ∧ F % 2 ^ (1051 - 1008 - 1) ≠ 0 := by decide
theorem witness_HcmpCodes :
    binary16.numberOf (0x7C01#16).toNat = none ∧ binary16.numberOf (0x7C00#16).toNat = some .posInfinity ∧
      binary16.numberOf (0x0001#16).toNat = some (.finite (2 ^ 1050)) := by decide +kernel
theorem witness_HeqIsEqualityOfNumbers : isNaN16 0x0000 = false ∧ isNaN16 0x8000 = false := by decide
theorem witness_ComparatorLaws : isNaN16 0xFFFF = true ∧ isNaN16 0x7C00 = false ∧ isNaN16 0xFC00 = false := by decide

end Sys2Proof.Tests
end

/-! # The encoding family (spec/30_encoding.md): the step against the wrapper's function

The wrapper's function `halfCore` reads values alone and the step reads ports, so the link between the two is one equation,
`exec_eq_halfCore`: where something drives the bits an operation reads, the operation answers what `halfCore` gives. What is
said of results below is said of `halfCore` and carried to the step by that equation. -/

namespace Sys2Proof.Machine

/-! ### Codes -/

theorem decode_encode (i : Instr) : decode (encode i) = .ok i := by cases i <;> rfl

/-- The accepted codes are the codes of the operations (R44, R45). -/
theorem exists_encode_eq_of_codeAccepted {op : OpCode} (h : codeAccepted op = true) : ∃ i, encode i = op := by
  have codes : ∀ op : OpCode, codeAccepted op = true → op ∈ opcodeTable.map (encode ·.instr) := by decide
  obtain ⟨row, -, hrow⟩ := List.mem_map.mp (codes op h)
  exact ⟨row.instr, hrow⟩

theorem codeAccepted_eq_false_iff (op : OpCode) : codeAccepted op = false ↔ 0xB ≤ op.toNat := by
  simp only [codeAccepted, decide_eq_false_iff_not]
  omega

theorem decode_reserved {op : OpCode} (h : codeAccepted op = false) : decode op = .error (.reservedCode op) := by
  have codes : ∀ op : OpCode, codeAccepted op = false → decode op = .error (.reservedCode op) := by decide
  exact codes op h

/-! ### Masks: "driven" and "the same" on the bits read, as equations of the low bits -/

/-- Two words agree under the mask of the `n` low bits exactly when their low parts are the same. -/
theorem and_lowMask_eq_iff {w n : Nat} (hn : n ≤ w) (x y : BitVec w) :
    x &&& (BitVec.allOnes n).setWidth w = y &&& (BitVec.allOnes n).setWidth w ↔ x.setWidth n = y.setWidth n := by
  constructor <;> intro h <;> ext k hk
  · have := congrArg (·.getLsbD k) h
    simpa [hk, Nat.lt_of_lt_of_le hk hn] using this
  · by_cases hkn : k < n
    · have := congrArg (·.getLsbD k) h
      simpa [hk, hkn, ← BitVec.getLsbD_eq_getElem] using this
    · simp [hkn]

/-- The `n` low bits of a port are driven exactly when its `driven` bits cover the mask of those bits. -/
theorem InPort.lowDriven_iff_and_lowMask {w n : Nat} (hn : n ≤ w) (p : InPort w) :
    p.lowDriven n = true ↔ p.driven &&& (BitVec.allOnes n).setWidth w = (BitVec.allOnes n).setWidth w := by
  have allDriven : (BitVec.allOnes w).setWidth n = BitVec.allOnes n := by
    ext k hk
    simp [Nat.lt_of_lt_of_le hk hn]
  have := and_lowMask_eq_iff hn p.driven (BitVec.allOnes w)
  rw [BitVec.allOnes_and, allDriven] at this
  rw [this, InPort.lowDriven, beq_iff_eq]

/-- The masks of R44's "operands read" column say the same as the model's own check. -/
theorem readsDriven_iff_operandsDriven (i : Instr) (s : State) : Rule.ReadsDriven i s ↔ operandsDriven i s = true := by
  have a16 := s.a.lowDriven_iff_and_lowMask (n := 16) (by decide)
  have a32 := s.a.lowDriven_iff_and_lowMask (n := 32) (by decide)
  have a64 := s.a.lowDriven_iff_and_lowMask (n := 64) (by decide)
  have b16 := s.b.lowDriven_iff_and_lowMask (n := 16) (by decide)
  cases i
  case h2f | h2d => exact (and_iff_left BitVec.and_zero).trans a16.symm
  case f2h => exact (and_iff_left BitVec.and_zero).trans a32.symm
  case d2h => exact (and_iff_left BitVec.and_zero).trans a64.symm
  case heq | hne | hcmp | hlt | hle | hgt | hge =>
    exact (and_congr a16 b16).symm.trans Bool.and_eq_true_iff.symm

/-- A request the host drives drives every bit its operation reads. -/
theorem operandsDriven_driveRequest (i : Instr) (s : State) (op : OpCode) (a : Bus) (b : Half) :
    operandsDriven i (s.driveRequest op a b) = true := by
  cases i <;> simp [operandsDriven, InPort.full_lowDriven]

/-! ### The wrapper's function on the codes of the operations and on the reserved codes -/

theorem halfCore_encode_illegal (i : Instr) (a : Bus) (b : Half) : (halfCore (encode i) a b).illegal = 0#1 := by
  cases i <;> rfl

/-- R45: the catch-all row of the written-out function. -/
theorem halfCore_reserved {op : OpCode} (h : codeAccepted op = false) (a : Bus) (b : Half) :
    halfCore op a b = ⟨0#64, 1#1⟩ := by
  have hop := (codeAccepted_eq_false_iff op).mp h
  obtain ⟨n, hn⟩ := Nat.exists_eq_add_of_le' hop
  simp [halfCore, hn]

/-- The wrapper's function reads no bit outside the masks (R46). -/
theorem halfCore_encode_congr {i : Instr} {s t : State} (h : Rule.SameReads i s t) :
    halfCore (encode i) s.a.value s.b.value = halfCore (encode i) t.a.value t.b.value := by
  obtain ⟨ha, hb⟩ := h
  have a16 := (and_lowMask_eq_iff (n := 16) (by decide) s.a.value t.a.value).mp
  have a32 := (and_lowMask_eq_iff (n := 32) (by decide) s.a.value t.a.value).mp
  cases i
  case h2f | h2d => simp [halfCore, encode, a16 ha]
  case f2h => simp [halfCore, encode, a32 ha]
  case d2h =>
    have a64 : s.a.value = t.a.value := by
      simpa using (and_lowMask_eq_iff (n := 64) (by decide) s.a.value t.a.value).mp ha
    rw [a64]
    rfl
  case heq | hne | hcmp | hlt | hle | hgt | hge =>
    have b16 : s.b.value = t.b.value := by
      simpa using (and_lowMask_eq_iff (n := 16) (by decide) s.b.value t.b.value).mp hb
    simp [halfCore, encode, a16 ha, b16]

theorem zext64_toNat_lt {n : Nat} (v : BitVec n) : (zext64 v).toNat < 2 ^ n :=
  calc (zext64 v).toNat = v.toNat % 2 ^ 64 := BitVec.toNat_setWidth 64 v
    _ ≤ v.toNat := Nat.mod_le ..
    _ < 2 ^ n := v.isLt

/-- Nothing stands above the width of the result (R47). -/
theorem halfCore_encode_r_lt (i : Instr) (a : Bus) (b : Half) :
    (halfCore (encode i) a b).r.toNat < 2 ^ Rule.resultWidth i := by
  cases i
  case h2d => exact BitVec.isLt _
  all_goals exact zext64_toNat_lt _

/-! ### The step computes the wrapper's function -/

/-- With the bits it reads driven, an operation answers its row of R44. -/
theorem exec_eq_halfCore {i : Instr} {s : State} (h : operandsDriven i s = true) :
    exec i s = .next (s.setOutputs (halfCore (encode i) s.a.value s.b.value).r 0#1) := by
  have a64 : s.a.low 64 = s.a.value := BitVec.setWidth_eq s.a.value
  have b16 : s.b.low 16 = s.b.value := BitVec.setWidth_eq s.b.value
  cases i
  case h2f | h2d | f2h =>
    simp only [exec_h2f, exec_h2d, exec_f2h]
    rw [answerOne_driven h]
    rfl
  case d2h =>
    rw [exec_d2h, answerOne_driven h, a64]
    rfl
  case heq | hne | hcmp | hlt | hle | hgt | hge =>
    obtain ⟨ha, hb⟩ := Bool.and_eq_true_iff.mp h
    simp only [exec_heq, exec_hne, exec_hcmp, exec_hlt, exec_hle, exec_hgt, exec_hge]
    rw [answerTwo_driven ha hb, b16]
    rfl

theorem step_eq_exec {s : State} {op : OpCode} {i : Instr} (h : s.requestedCode = some op) (hd : decode op = .ok i) :
    step s = exec i s := by
  simp [step, h, hd]

theorem step_eq_halfCore {i : Instr} {s : State} (h : s.requestedCode = some (encode i)) (hd : operandsDriven i s = true) :
    step s = .next (s.setOutputs (halfCore (encode i) s.a.value s.b.value).r 0#1) :=
  (step_eq_exec h (decode_encode i)).trans (exec_eq_halfCore hd)

/-- A driven request with a defined code answers what the wrapper's function gives for its three levels, whatever state it
is driven in. -/
theorem step_driveRequest (s : State) {op : OpCode} (h : codeAccepted op = true) (a : Bus) (b : Half) :
    step (s.driveRequest op a b) = .next ((s.driveRequest op a b).setOutputs (halfCore op a b).r 0#1) := by
  obtain ⟨i, rfl⟩ := exists_encode_eq_of_codeAccepted h
  exact step_eq_halfCore (by simp) (operandsDriven_driveRequest ..)

theorem step_reserved {s : State} {op : OpCode} (h : s.requestedCode = some op) (hop : codeAccepted op = false) :
    step s = .refused (.reservedCode op) :=
  step_refused h (decode_reserved hop)

/-! ### The statements -/

/-- Settles O17: the defined codes by `step_eq_halfCore`, the reserved ones by the refusal of the decoder. -/
theorem stepComputesTheWrapperFunction : Obligations.StepComputesTheWrapperFunction := by
  constructor
  · intro s i hcode hreads
    exact ⟨step_eq_halfCore hcode ((readsDriven_iff_operandsDriven i s).mp hreads), halfCore_encode_illegal ..⟩
  · intro s op hcode hop
    exact ⟨step_reserved hcode hop, halfCore_reserved hop ..⟩

/-- Settles O18: both steps answer the wrapper's function, which reads no bit outside the masks. -/
theorem onlyTheBitsReadMatter : Obligations.OnlyTheBitsReadMatter := by
  intro i s t hs ht hsd htd hsame
  have stepS := step_eq_halfCore hs ((readsDriven_iff_operandsDriven i s).mp hsd)
  have stepT := step_eq_halfCore ht ((readsDriven_iff_operandsDriven i t).mp htd)
  exact ⟨_, _, stepS, stepT, congrArg Outputs.r (halfCore_encode_congr hsame), rfl⟩

/-- Settles O19: the operation answers the wrapper's function, whose results keep to their widths. -/
theorem resultsAreZeroExtended : Obligations.ResultsAreZeroExtended := by
  intro i s hd
  exact ⟨_, exec_eq_halfCore hd, halfCore_encode_r_lt .., rfl⟩

/-- Settles O5: a reserved code decodes to nothing, and the answer to the next request is the wrapper's function of that
request's own levels, so the outputs left on the ports do not enter it. -/
theorem reservedCodesAreRefusedAndLeaveNoTrace : Obligations.ReservedCodesAreRefusedAndLeaveNoTrace := by
  intro s op hop
  have hreserved := (codeAccepted_eq_false_iff op).mpr hop
  refine ⟨halfCore_reserved hreserved, fun hcode => step_reserved hcode hreserved, ?_⟩
  intro a b op' a' b' hop'
  exact ⟨_, _, step_driveRequest _ hop' a' b', step_driveRequest s hop' a' b', rfl, rfl⟩

end Sys2Proof.Machine

/-! # Widening (spec/41_widen.md): H2F, H2D and the LIBRARY_COMPAT variant

The procedure `widen` gets one equation per case of R51, in the fields of the binary16 pattern and for every target format wide
enough (`CanWidenTo`). The case lists of R52 and R53 are one list, `widenCaseList`, at the two formats, so both instructions
follow from one theorem, `ofNat_widen_preserve`. -/

namespace Sys2Proof.Machine

open Config (NanQuieting)

/-! ### Fields of patterns -/

theorem toNat_append_ofNat {n w : Nat} (x : BitVec n) {y : Nat} (hy : y < 2 ^ w) :
    (x ++ BitVec.ofNat w y).toNat = concat x.toNat y w := by
  rw [BitVec.toNat_append, BitVec.toNat_ofNat, Nat.mod_eq_of_lt hy, concat, Nat.shiftLeft_eq, Nat.mul_comm,
    Nat.two_pow_add_eq_or_of_lt hy]

/-- A pattern as the row of its three fields. -/
theorem FloatFormat.ofNat_pattern (f : FloatFormat) (s : BitVec 1) {e m : Nat} (he : e < 2 ^ f.ew) (hm : m < 2 ^ f.mw) :
    BitVec.ofNat (1 + f.ew + f.mw) (f.pattern s.toNat e m) = s ++ BitVec.ofNat f.ew e ++ BitVec.ofNat f.mw m := by
  rw [pattern, ← toNat_append_ofNat s he, ← toNat_append_ofNat _ hm, BitVec.ofNat_toNat, BitVec.setWidth_eq]

theorem toNat_signSlice (h : Half) : (h.extractLsb' 15 1).toNat = binary16.sign h.toNat := by
  rw [BitVec.extractLsb'_toNat, Nat.shiftRight_eq_div_pow]
  rfl

theorem toNat_exponentSlice (h : Half) : (h.extractLsb' 10 5).toNat = binary16.exponent h.toNat := by
  rw [BitVec.extractLsb'_toNat, Nat.shiftRight_eq_div_pow]
  rfl

theorem toNat_mantissaSlice (h : Half) : (h.extractLsb' 0 10).toNat = binary16.mantissa h.toNat := by
  rw [BitVec.extractLsb'_toNat, Nat.shiftRight_eq_div_pow]
  rfl

theorem exponent16_lt (h : Half) : binary16.exponent h.toNat < 32 := binary16.exponent_lt h.toNat (by decide)

theorem mantissa16_eq (h : Half) : binary16.mantissa h.toNat = h.toNat % 2 ^ 10 := bits_zero_low _ 9

theorem mantissa16_testBit_nine (h : Half) : (binary16.mantissa h.toNat).testBit 9 = h.getLsbD 9 := by
  rw [mantissa16_eq, Nat.testBit_mod_two_pow]
  rfl

theorem mantissa16_lt (h : Half) : binary16.mantissa h.toNat < 2 ^ 10 := binary16.mantissa_lt h.toNat (by decide)

theorem exponent16_eq_31 {h : Half} (hbig : ¬ binary16.exponent h.toNat ≤ 30) : binary16.exponent h.toNat = 31 := by
  have := exponent16_lt h
  omega

theorem msbIndex_mantissa16_lt {h : Half} (hm : binary16.mantissa h.toNat ≠ 0) :
    msbIndex (binary16.mantissa h.toNat) < 10 :=
  (Nat.log2_lt hm).mpr (mantissa16_lt h)

/-- R40's test on the magnitude is the NaN class of R36. -/
theorem isNaN16_iff (h : Half) : isNaN16 h = true ↔ binary16.exponent h.toNat = 31 ∧ binary16.mantissa h.toNat ≠ 0 := by
  have he : binary16.exponent h.toNat = h.toNat / 2 ^ 10 % 2 ^ 5 := rfl
  rw [isNaN16, decide_eq_true_iff, magnitude16_eq, he, mantissa16_eq]
  omega

/-! ### The loop of R51, step 3 -/

/-- The loop shifts the leading bit of a mantissa of at most 11 bits up to bit 10. -/
theorem normalise_eq {fuel m : Nat} (k : Nat) (hm : m ≠ 0) (hlog : msbIndex m ≤ 10) (hfuel : 10 - msbIndex m ≤ fuel) :
    normalise fuel k m = (k + (10 - msbIndex m), m * 2 ^ (10 - msbIndex m)) := by
  induction fuel generalizing k m with
  | zero => simp [normalise, Nat.le_zero.mp hfuel]
  | succ fuel ih =>
    rw [normalise, bit_eq_testBit]
    obtain hlead | hbelow := Nat.eq_or_lt_of_le hlog
    · have : m.testBit 10 = true := hlead ▸ Nat.testBit_log2 hm
      simp [this, hlead]
    · have : m.testBit 10 = false := Nat.testBit_lt_two_pow ((Nat.log2_lt hm).mp hbelow)
      have hdouble : msbIndex (m * 2) = msbIndex m + 1 := Nat.mul_comm 2 m ▸ Nat.log2_two_mul hm
      have hshift : 10 - msbIndex m = 10 - (msbIndex m + 1) + 1 := by omega
      rw [if_neg (by simp [this]), ih _ (by omega) (by omega) (by omega), hdouble, hshift, Nat.pow_succ', Nat.mul_assoc]
      simp only [Prod.mk.injEq, and_true]
      omega

/-- The mantissa the loop leaves below the leading bit, in its place in a wider field (the closed form of R51). -/
theorem normalised_mantissa {m mw : Nat} (hlog : msbIndex m ≤ 10) (hmw : 10 ≤ mw) :
    lowBits (m * 2 ^ (10 - msbIndex m)) 10 * 2 ^ (mw - 10) = lowBits (m * 2 ^ (mw - msbIndex m)) mw := by
  have hshift : mw - msbIndex m = 10 - msbIndex m + (mw - 10) := by omega
  have hwidth : 2 ^ mw = 2 ^ 10 * 2 ^ (mw - 10) := by rw [← Nat.pow_add, Nat.add_sub_cancel' hmw]
  rw [lowBits, lowBits, hshift, hwidth, Nat.pow_add, ← Nat.mul_assoc, Nat.mul_mod_mul_right]

/-! ### The procedure of R51, one equation per case -/

/-- The formats that R51 widens to: the mantissa has room for 10 bits, and the exponents of all widened numbers fit. -/
structure FloatFormat.CanWidenTo (f : FloatFormat) : Prop where
  mantissa : 10 ≤ f.mw
  least    : 24 ≤ f.bias
  greatest : f.bias + 15 < 2 ^ f.ew

theorem canWidenTo_binary32 : binary32.CanWidenTo := ⟨by decide, by decide, by decide⟩

theorem canWidenTo_binary64 : binary64.CanWidenTo := ⟨by decide, by decide, by decide⟩

section Cases

variable {f : FloatFormat} {h : Half} (q : NanQuieting)

theorem widen_zero (he : binary16.exponent h.toNat = 0) (hm : binary16.mantissa h.toNat = 0) :
    widen q f h = f.pattern (binary16.sign h.toNat) 0 0 :=
  if_pos ⟨he, hm⟩

theorem widen_subnormal (hf : f.CanWidenTo) (he : binary16.exponent h.toNat = 0) (hm : binary16.mantissa h.toNat ≠ 0) :
    widen q f h = f.pattern (binary16.sign h.toNat) (msbIndex (binary16.mantissa h.toNat) + (f.bias - 24))
      (lowBits (binary16.mantissa h.toNat * 2 ^ (f.mw - msbIndex (binary16.mantissa h.toNat))) f.mw) := by
  obtain ⟨hmw, hbias, -⟩ := hf
  have hlog : msbIndex (binary16.mantissa h.toNat) < 10 := msbIndex_mantissa16_lt hm
  have hloop := normalise_eq 0 hm hlog.le (fuel := 10) (by omega)
  have hexp : f.bias - 14 - (0 + (10 - msbIndex (binary16.mantissa h.toNat)))
      = msbIndex (binary16.mantissa h.toNat) + (f.bias - 24) := by omega
  rw [← normalised_mantissa hlog.le hmw, ← hexp]
  refine (if_neg fun hzero => hm hzero.2).trans ((if_pos he).trans ?_)
  exact congrArg (fun r : Nat × Nat => f.pattern _ (f.bias - 14 - r.1) (lowBits r.2 10 * 2 ^ (f.mw - 10))) hloop

theorem widen_normal (hf : f.CanWidenTo) (he : binary16.exponent h.toNat ≠ 0) (he' : binary16.exponent h.toNat ≤ 30) :
    widen q f h = f.pattern (binary16.sign h.toNat) (binary16.exponent h.toNat + (f.bias - 15))
      (binary16.mantissa h.toNat * 2 ^ (f.mw - 10)) := by
  rw [← Nat.add_sub_assoc (by have := hf.least; omega)]
  exact (if_neg fun hzero => he hzero.1).trans ((if_neg he).trans (if_pos he'))

/-- The cases of exponent 31, where alone the NaN parameter enters. -/
theorem widen_special (he : binary16.exponent h.toNat = 31) :
    widen q f h = f.pattern (binary16.sign h.toNat) (ones f.ew)
      (if binary16.mantissa h.toNat = 0 then 0 else widenNanMantissa q f (binary16.mantissa h.toNat)) := by
  have hzero : ¬ binary16.exponent h.toNat = 0 := by omega
  have hnormal : ¬ binary16.exponent h.toNat ≤ 30 := by omega
  rw [apply_ite (f.pattern _ _)]
  exact (if_neg fun hz => hzero hz.1).trans ((if_neg hzero).trans (if_neg hnormal))

theorem widen_infinity (he : binary16.exponent h.toNat = 31) (hm : binary16.mantissa h.toNat = 0) :
    widen q f h = f.pattern (binary16.sign h.toNat) (ones f.ew) 0 := by
  rw [widen_special q he, if_pos hm]

theorem widen_nan (he : binary16.exponent h.toNat = 31) (hm : binary16.mantissa h.toNat ≠ 0) :
    widen q f h = f.pattern (binary16.sign h.toNat) (ones f.ew) (widenNanMantissa q f (binary16.mantissa h.toNat)) := by
  rw [widen_special q he, if_neg hm]

end Cases

/-- Under PRESERVE an infinity and a NaN widen alike: the mantissa moves to the top of the wider field. -/
theorem widen_preserve_special (f : FloatFormat) {h : Half} (he : binary16.exponent h.toNat = 31) :
    widen .preserve f h = f.pattern (binary16.sign h.toNat) (ones f.ew) (binary16.mantissa h.toNat * 2 ^ (f.mw - 10)) := by
  by_cases hm : binary16.mantissa h.toNat = 0
  · rw [widen_infinity _ he hm, hm, Nat.zero_mul]
  · exact widen_nan _ he hm

/-! ### The case lists of R52 and R53 -/

/-- The case list of R52 and R53 for the fields of any target format. -/
def widenCaseList (f : FloatFormat) (h : Half) : BitVec (1 + f.ew + f.mw) :=
  let s := h.extractLsb' 15 1
  let e := (h.extractLsb' 10 5).toNat
  let m := (h.extractLsb' 0 10).toNat
  if e = 0 ∧ m = 0 then s ++ 0#f.ew ++ 0#f.mw
  else if e = 0 then
    s ++ BitVec.ofNat f.ew (Nat.log2 m + (f.bias - 24)) ++ BitVec.ofNat f.mw (m <<< (f.mw - Nat.log2 m))
  else if e ≤ 30 then s ++ BitVec.ofNat f.ew (e + (f.bias - 15)) ++ BitVec.ofNat f.mw (m <<< (f.mw - 10))
  else s ++ BitVec.ofNat f.ew (ones f.ew) ++ BitVec.ofNat f.mw (m <<< (f.mw - 10))

theorem rule_h2f_eq (h : Half) : Rule.h2f h = widenCaseList binary32 h := by
  have hzero : ∀ s : BitVec 1, s ++ 0#31 = s ++ 0#8 ++ 0#23 := by decide
  simp only [Rule.h2f, hzero]
  rfl

theorem rule_h2d_eq (h : Half) : Rule.h2d h = widenCaseList binary64 h := by
  have hzero : ∀ s : BitVec 1, s ++ 0#63 = s ++ 0#11 ++ 0#52 := by decide
  simp only [Rule.h2d, hzero]
  rfl

theorem mantissa16_shift_lt (h : Half) {mw : Nat} (hmw : 10 ≤ mw) :
    binary16.mantissa h.toNat * 2 ^ (mw - 10) < 2 ^ mw :=
  calc binary16.mantissa h.toNat * 2 ^ (mw - 10)
    _ < 2 ^ 10 * 2 ^ (mw - 10) := Nat.mul_lt_mul_of_pos_right (mantissa16_lt h) (Nat.two_pow_pos _)
    _ = 2 ^ mw := by rw [← Nat.pow_add, Nat.add_sub_cancel' hmw]

theorem ones_lt (n : Nat) : ones n < 2 ^ n := Nat.sub_one_lt (Nat.two_pow_pos n).ne'

/-- Under PRESERVE the procedure R51 answers the case list. -/
theorem ofNat_widen_preserve {f : FloatFormat} (hf : f.CanWidenTo) (h : Half) :
    BitVec.ofNat (1 + f.ew + f.mw) (widen .preserve f h) = widenCaseList f h := by
  have hmant := mantissa16_shift_lt h hf.mantissa
  have hleast := hf.least
  have hgreatest := hf.greatest
  simp only [widenCaseList, toNat_exponentSlice, toNat_mantissaSlice, Nat.shiftLeft_eq]
  split_ifs with hzero he he'
  · rw [widen_zero _ hzero.1 hzero.2, ← toNat_signSlice]
    exact f.ofNat_pattern _ (Nat.two_pow_pos _) (Nat.two_pow_pos _)
  · have hm : binary16.mantissa h.toNat ≠ 0 := fun hm => hzero ⟨he, hm⟩
    have hlog : msbIndex (binary16.mantissa h.toNat) < 10 := msbIndex_mantissa16_lt hm
    rw [widen_subnormal _ hf he hm, ← toNat_signSlice, f.ofNat_pattern _ (by omega) (lowBits_lt ..)]
    exact congrArg _ (BitVec.eq_of_toNat_eq (by simp [lowBits, msbIndex]))
  · rw [widen_normal _ hf he he', ← toNat_signSlice]
    exact f.ofNat_pattern _ (by omega) hmant
  · have he31 := exponent16_eq_31 he'
    rw [widen_preserve_special f he31, ← toNat_signSlice]
    exact f.ofNat_pattern _ (ones_lt _) hmant

theorem fp16ToFp32Converter_eq_rule (h : Half) : fp16ToFp32Converter h = Rule.h2f h :=
  (ofNat_widen_preserve canWidenTo_binary32 h).trans (rule_h2f_eq h).symm

theorem fp16ToFp64Converter_eq_rule (h : Half) : fp16ToFp64Converter h = Rule.h2d h :=
  (ofNat_widen_preserve canWidenTo_binary64 h).trans (rule_h2d_eq h).symm

/-! ### The LIBRARY_COMPAT variant (R55) -/

/-- `NAN_QUIETING` does not enter where the operand is not a NaN. -/
theorem widen_quieting_irrelevant {f : FloatFormat} (hf : f.CanWidenTo) {h : Half} (hnan : isNaN16 h = false)
    (q q' : NanQuieting) : widen q f h = widen q' f h := by
  by_cases he : binary16.exponent h.toNat = 0
  · by_cases hm : binary16.mantissa h.toNat = 0
    · rw [widen_zero q he hm, widen_zero q' he hm]
    · rw [widen_subnormal q hf he hm, widen_subnormal q' hf he hm]
  by_cases he' : binary16.exponent h.toNat ≤ 30
  · rw [widen_normal q hf he he', widen_normal q' hf he he']
  · have he31 := exponent16_eq_31 he'
    have hm : binary16.mantissa h.toNat = 0 := by
      by_contra hm
      exact Bool.false_ne_true (hnan.symm.trans ((isNaN16_iff h).mpr ⟨he31, hm⟩))
    rw [widen_infinity q he31 hm, widen_infinity q' he31 hm]

theorem ofNat_widen_libraryCompat_nan {f : FloatFormat} (hf : f.CanWidenTo) {h : Half} (hnan : isNaN16 h = true) :
    BitVec.ofNat (1 + f.ew + f.mw) (widen .libraryCompat f h) =
      h.extractLsb' 15 1 ++ BitVec.ofNat f.ew (ones f.ew) ++
        BitVec.ofNat f.mw ((h.extractLsb' 0 10).toNat <<< (f.mw - 10) ||| 1 <<< (f.mw - 1)) := by
  obtain ⟨he, hm⟩ := (isNaN16_iff h).mp hnan
  have hquiet : 2 ^ (f.mw - 1) < 2 ^ f.mw := Nat.pow_lt_pow_right (by decide) (by have := hf.mantissa; omega)
  rw [widen_nan _ he hm, ← toNat_signSlice, toNat_mantissaSlice, Nat.shiftLeft_eq, Nat.one_shiftLeft]
  exact f.ofNat_pattern _ (ones_lt _) (Nat.or_lt_two_pow (mantissa16_shift_lt h hf.mantissa) hquiet)

/-- Setting a bit that is set changes nothing. -/
theorem or_two_pow_of_testBit {n i : Nat} (hbit : n.testBit i = true) : n ||| 2 ^ i = n := by
  refine Nat.eq_of_testBit_eq fun j => ?_
  rw [Nat.testBit_or, Nat.testBit_two_pow]
  by_cases hij : i = j
  · simp [← hij, hbit]
  · simp [hij]

/-- A NaN whose `m[9]` is set is quiet already. -/
theorem widen_libraryCompat_quietNan {f : FloatFormat} (hf : f.CanWidenTo) {h : Half} (hnan : isNaN16 h = true)
    (hquiet : h.getLsbD 9 = true) : widen .libraryCompat f h = widen .preserve f h := by
  obtain ⟨he, hm⟩ := (isNaN16_iff h).mp hnan
  have htop : (binary16.mantissa h.toNat * 2 ^ (f.mw - 10)).testBit (f.mw - 1) = true := by
    have hmw := hf.mantissa
    have hm9 : f.mw - 1 - (f.mw - 10) = 9 := by omega
    have hle : f.mw - 10 ≤ f.mw - 1 := by omega
    simp [Nat.testBit_mul_two_pow, hm9, hle, mantissa16_testBit_nine, hquiet]
  rw [widen_nan _ he hm, widen_nan _ he hm]
  exact congrArg (f.pattern _ _) (or_two_pow_of_testBit htop)

/-! ### The statements -/

/-- Settles O6: the procedure R51 at binary32 is the case list, and the code `0x0` is H2F's. -/
theorem h2fAnswersItsCaseList : Obligations.H2fAnswersItsCaseList := by
  intro s
  refine ⟨fun hdriven => ?_, fun hcode => step_eq_exec hcode (decode_encode .h2f)⟩
  rw [exec_h2f, answerOne_driven hdriven, fp16ToFp32Converter_eq_rule]
  rfl

/-- Settles O7: the procedure R51 at binary64 is the case list, and the code `0x1` is H2D's. -/
theorem h2dAnswersItsCaseList : Obligations.H2dAnswersItsCaseList := by
  intro s
  refine ⟨fun hdriven => ?_, fun hcode => step_eq_exec hcode (decode_encode .h2d)⟩
  rw [exec_h2d, answerOne_driven hdriven, fp16ToFp64Converter_eq_rule]
  rfl

/-- Settles O36: the parameter enters R51 in the NaN case alone, and there it sets a bit that `m[9]` may have set already. -/
theorem libraryCompatWideningChangesOnlyNans : Obligations.LibraryCompatWideningChangesOnlyNans := by
  intro h
  refine ⟨fun hnan => ⟨?_, ?_⟩, fun hnan => ⟨?_, ?_⟩, fun hnan hquiet => ⟨?_, ?_⟩, rfl, rfl⟩
  · exact congrArg (BitVec.ofNat 32) (widen_quieting_irrelevant canWidenTo_binary32 hnan _ _)
  · exact congrArg (BitVec.ofNat 64) (widen_quieting_irrelevant canWidenTo_binary64 hnan _ _)
  · exact ofNat_widen_libraryCompat_nan canWidenTo_binary32 hnan
  · exact ofNat_widen_libraryCompat_nan canWidenTo_binary64 hnan
  · exact congrArg (BitVec.ofNat 32) (widen_libraryCompat_quietNan canWidenTo_binary32 hnan hquiet)
  · exact congrArg (BitVec.ofNat 64) (widen_libraryCompat_quietNan canWidenTo_binary64 hnan hquiet)

end Sys2Proof.Machine

/-! # Narrowing (spec/42_narrow.md): F2H, D2H and the NaN rules R57 and R63

The procedure `narrow` gets one equation per case of R56, for every source format wide enough (`CanNarrowFrom`). The exponent
tables of R59 and R60 are one table, `narrowTable`, at the two formats, so both instructions follow from one theorem,
`ofNat_narrow_preserve`, and both infinity clauses from `narrowTable_eq_infinity_iff`. -/

namespace Sys2Proof.Machine

open Config (NanQuieting)

/-! ### Fields of source patterns -/

theorem toNat_extractLsb'_eq_bits {w : Nat} (x : BitVec w) (lo : Nat) {len : Nat} (hlen : 0 < len) :
    (x.extractLsb' lo len).toNat = bits x.toNat (lo + len - 1) lo := by
  have hwidth : lo + len - 1 + 1 - lo = len := by omega
  rw [BitVec.extractLsb'_toNat, Nat.shiftRight_eq_div_pow, bits, hwidth]

/-- The formats that R56 narrows from: the mantissa has a rounding bit below its top 10 bits, a biased exponent of 0 is below
every number that rounds to a binary16 subnormal, and the exponent of the largest binary16 numbers is not the special one. -/
structure FloatFormat.CanNarrowFrom (f : FloatFormat) : Prop where
  mantissa : 11 ≤ f.mw
  least    : 26 ≤ f.bias
  greatest : f.bias + 15 < ones f.ew

theorem canNarrowFrom_binary32 : binary32.CanNarrowFrom := ⟨by decide, by decide, by decide⟩

theorem canNarrowFrom_binary64 : binary64.CanNarrowFrom := ⟨by decide, by decide, by decide⟩

namespace FloatFormat

variable {f : FloatFormat} {w : Nat}

theorem CanNarrowFrom.ew_pos (hf : f.CanNarrowFrom) : 0 < f.ew := by
  by_contra hew
  have hzero : f.ew = 0 := by omega
  have := hf.greatest
  simp [hzero, ones] at this

theorem CanNarrowFrom.mw_pos (hf : f.CanNarrowFrom) : 0 < f.mw := by
  have := hf.mantissa
  omega

/-- The mantissa field as its top 10 bits above the discarded ones. -/
theorem CanNarrowFrom.two_pow_mw (hf : f.CanNarrowFrom) : 2 ^ f.mw = 2 ^ (f.mw - 10) * 2 ^ 10 := by
  have := hf.mantissa
  rw [← Nat.pow_add, Nat.sub_add_cancel (by omega)]

theorem toNat_signSlice (f : FloatFormat) (x : BitVec w) : (x.extractLsb' (f.ew + f.mw) 1).toNat = f.sign x.toNat :=
  toNat_extractLsb'_eq_bits x _ Nat.one_pos

theorem toNat_exponentSlice (hf : f.CanNarrowFrom) (x : BitVec w) :
    (x.extractLsb' f.mw f.ew).toNat = f.exponent x.toNat := by
  rw [toNat_extractLsb'_eq_bits x _ hf.ew_pos, Nat.add_comm]
  rfl

theorem toNat_mantissaSlice (hf : f.CanNarrowFrom) (x : BitVec w) :
    (x.extractLsb' 0 f.mw).toNat = f.mantissa x.toNat := by
  rw [toNat_extractLsb'_eq_bits x _ hf.mw_pos, Nat.zero_add]
  rfl

theorem mantissa_eq_mod (hf : f.CanNarrowFrom) (x : Nat) : f.mantissa x = x % 2 ^ f.mw := by
  rw [mantissa, bits_zero_low, Nat.sub_add_cancel hf.mw_pos]

/-- The top 10 bits of the mantissa field, as a shift of the field. -/
theorem topMantissa_eq_shift (hf : f.CanNarrowFrom) (x : Nat) :
    bits (f.mantissa x) (f.mw - 1) (f.mw - 10) = f.mantissa x >>> (f.mw - 10) := by
  have hmw := hf.mantissa
  have hwidth : f.mw - 1 + 1 - (f.mw - 10) = 10 := by omega
  have hlt : f.mantissa x / 2 ^ (f.mw - 10) < 2 ^ 10 :=
    Nat.div_lt_of_lt_mul (hf.two_pow_mw ▸ f.mantissa_lt x hf.mw_pos)
  rw [bits, hwidth, Nat.mod_eq_of_lt hlt, Nat.shiftRight_eq_div_pow]

/-- The top 10 bits of the mantissa field, as a slice of the pattern. -/
theorem topMantissa_eq_slice (hf : f.CanNarrowFrom) (x : BitVec w) :
    bits (f.mantissa x.toNat) (f.mw - 1) (f.mw - 10) = (x.extractLsb' (f.mw - 10) 10).toNat := by
  rw [topMantissa_eq_shift hf, mantissa_eq_mod hf, Nat.shiftRight_eq_div_pow, hf.two_pow_mw, Nat.mod_mul_right_div_self,
    BitVec.extractLsb'_toNat, Nat.shiftRight_eq_div_pow]

theorem classOf_eq_nan_iff (hf : f.CanNarrowFrom) (x : Nat) :
    f.classOf x = .nan ↔ f.exponent x = ones f.ew ∧ f.mantissa x ≠ 0 := by
  have hones : ones f.ew ≠ 0 := Nat.ne_zero_of_lt hf.greatest
  simp only [classOf]
  split_ifs with hzero hm hspecial hm
  · simp [hm]
  · simp [hzero, hones.symm]
  · simp [hm]
  · simp [hspecial, hm]
  · simp [hspecial]

end FloatFormat

/-! ### Rounding (R58) -/

/-- The model's rounding, in the terms of the tables of R59 and R60. -/
theorem roundNearestEven_eq_increment (v sh : Nat) :
    roundNearestEven v sh = v >>> sh + Rule.increment (v >>> sh) (v.testBit (sh - 1)) (v % 2 ^ (sh - 1)) := by
  rw [Nat.shiftRight_eq_div_pow, Rule.increment]
  simp only [roundNearestEven, bit_eq_testBit, Bool.toNat, Bool.cond_eq_ite]
  exact congrArg _ (if_congr (by simp [lowBits]) rfl rfl)

/-- Where `n` bits are retained, rounding gives at most the carry `2 ^ n`. -/
theorem roundNearestEven_le {v sh n : Nat} (h : v < 2 ^ (sh + n)) : roundNearestEven v sh ≤ 2 ^ n := by
  have hkeep : v / 2 ^ sh < 2 ^ n := Nat.div_lt_of_lt_mul (by rwa [← Nat.pow_add])
  obtain hround | hround := roundNearestEven_eq v sh <;> omega

/-- Rounding to 10 bits carries out of them exactly where all of them and the rounding bit are set: the retained bits are odd
then, so the sticky bit does not enter. -/
theorem roundNearestEven_eq_carry_iff {v k : Nat} (h : v < 2048 * 2 ^ k) :
    roundNearestEven v (k + 1) = 1024 ↔ 2047 * 2 ^ k ≤ v := by
  have hlt : v / 2 ^ k < 2048 := (Nat.div_lt_iff_lt_mul (Nat.two_pow_pos k)).mpr h
  have hkeep : v >>> (k + 1) = v / 2 ^ k / 2 := by
    rw [Nat.shiftRight_eq_div_pow, Nat.pow_succ, Nat.div_div_eq_div_mul]
  rw [roundNearestEven_eq_increment, Nat.add_sub_cancel, hkeep, Nat.testBit_eq_decide_div_mod_eq, Rule.increment,
    ← Nat.le_div_iff_mul_le (Nat.two_pow_pos k)]
  split_ifs with hinc
  · have hrb := of_decide_eq_true hinc.1
    omega
  · have hdown : ¬ (v / 2 ^ k % 2 = 1 ∧ v / 2 ^ k / 2 % 2 = 1) := fun h => hinc ⟨decide_eq_true h.1, .inr h.2⟩
    omega

/-! ### The procedure of R56, one equation per case -/

section Cases

variable {f : FloatFormat} {x : Nat} (q : NanQuieting) (fill : BitVec 10)

theorem narrow_infinity (he : f.exponent x = ones f.ew) (hm : f.mantissa x = 0) :
    narrow q fill f x = concat (f.sign x) 0x7C00 15 :=
  (if_pos he).trans (if_pos hm)

theorem narrow_nan (he : f.exponent x = ones f.ew) (hm : f.mantissa x ≠ 0) :
    narrow q fill f x = binary16.pattern (f.sign x) 31 (narrowNanMantissa q fill f (f.mantissa x)) :=
  (if_pos he).trans (if_neg hm)

theorem narrow_overflow (hspecial : f.exponent x ≠ ones f.ew) (he : f.bias + 16 ≤ f.exponent x) :
    narrow q fill f x = concat (f.sign x) 0x7C00 15 := by
  have hzero : f.exponent x ≠ 0 := by omega
  have hbig : (f.exponent x : Int) - f.bias + 15 ≥ 31 := by omega
  exact (if_neg hspecial).trans ((if_neg hzero).trans (if_pos hbig))

theorem narrow_normal (hf : f.CanNarrowFrom) (he : f.bias - 14 ≤ f.exponent x) (he' : f.exponent x < f.bias + 16) :
    narrow q fill f x = concat (f.sign x)
      ((f.exponent x - (f.bias - 15)) * 2 ^ 10 + roundNearestEven (f.mantissa x) (f.mw - 10)) 15 := by
  obtain ⟨-, hleast, hgreatest⟩ := hf
  have hspecial : f.exponent x ≠ ones f.ew := by omega
  have hzero : f.exponent x ≠ 0 := by omega
  have hbig : ¬ (f.exponent x : Int) - f.bias + 15 ≥ 31 := by omega
  have hnormal : (f.exponent x : Int) - f.bias + 15 ≥ 1 := by omega
  have hexp : f.exponent x - (f.bias - 15) = ((f.exponent x : Int) - f.bias + 15).toNat := by omega
  rw [hexp]
  exact (if_neg hspecial).trans ((if_neg hzero).trans ((if_neg hbig).trans (if_pos hnormal)))

theorem narrow_subnormal (hf : f.CanNarrowFrom) (he : f.bias - 25 ≤ f.exponent x) (he' : f.exponent x < f.bias - 14) :
    narrow q fill f x = concat (f.sign x)
      (roundNearestEven (2 ^ f.mw + f.mantissa x) (f.bias + f.mw - 24 - f.exponent x)) 15 := by
  obtain ⟨hmw, hleast, hgreatest⟩ := hf
  have hspecial : f.exponent x ≠ ones f.ew := by omega
  have hzero : f.exponent x ≠ 0 := by omega
  have hbig : ¬ (f.exponent x : Int) - f.bias + 15 ≥ 31 := by omega
  have hnormal : ¬ (f.exponent x : Int) - f.bias + 15 ≥ 1 := by omega
  have hsh : f.bias + f.mw - 24 - f.exponent x = ((f.mw : Int) - 9 - ((f.exponent x : Int) - f.bias + 15)).toNat := by omega
  have hkept : ¬ ((f.mw : Int) - 9 - ((f.exponent x : Int) - f.bias + 15)).toNat > f.mw + 1 := by omega
  rw [hsh]
  exact (if_neg hspecial).trans ((if_neg hzero).trans ((if_neg hbig).trans ((if_neg hnormal).trans (if_neg hkept))))

theorem narrow_underflow (hf : f.CanNarrowFrom) (he : f.exponent x < f.bias - 25) :
    narrow q fill f x = concat (f.sign x) 0 15 := by
  obtain ⟨hmw, hleast, hgreatest⟩ := hf
  have hspecial : f.exponent x ≠ ones f.ew := by omega
  by_cases hzero : f.exponent x = 0
  · exact (if_neg hspecial).trans (if_pos hzero)
  · have hbig : ¬ (f.exponent x : Int) - f.bias + 15 ≥ 31 := by omega
    have hnormal : ¬ (f.exponent x : Int) - f.bias + 15 ≥ 1 := by omega
    have hlost : ((f.mw : Int) - 9 - ((f.exponent x : Int) - f.bias + 15)).toNat > f.mw + 1 := by omega
    exact (if_neg hspecial).trans ((if_neg hzero).trans ((if_neg hbig).trans ((if_neg hnormal).trans (if_pos hlost))))

end Cases

/-- The parameters enter in the NaN case alone. -/
theorem narrow_parameters_irrelevant {f : FloatFormat} (hf : f.CanNarrowFrom) {x : Nat} (hnan : f.classOf x ≠ .nan)
    (q q' : NanQuieting) (fill fill' : BitVec 10) : narrow q fill f x = narrow q' fill' f x := by
  by_cases he : f.exponent x = ones f.ew
  · have hm : f.mantissa x = 0 := by
      by_contra hm
      exact hnan ((FloatFormat.classOf_eq_nan_iff hf x).mpr ⟨he, hm⟩)
    rw [narrow_infinity q fill he hm, narrow_infinity q' fill' he hm]
  · exact (if_neg he).trans (if_neg he).symm

/-! ### NaNs (R57, R63) -/

/-- The binary16 NaN with a sign and a mantissa, as a row of fields. -/
theorem isNaN16_specialRow (s : BitVec 1) {m : BitVec 10} (hm : m ≠ 0#10) : isNaN16 (s ++ 0b11111#5 ++ m) = true := by
  have hrow : (s ++ 0b11111#5 ++ m).toNat = concat (concat s.toNat 31 5) m.toNat 10 := by
    rw [← toNat_append_ofNat s (by decide), ← toNat_append_ofNat _ m.isLt, BitVec.ofNat_toNat, BitVec.setWidth_eq]
  refine (isNaN16_iff _).mpr ⟨?_, ?_⟩
  · calc binary16.exponent (s ++ 0b11111#5 ++ m).toNat
      _ = concat (concat s.toNat 31 5) m.toNat 10 / 2 ^ 10 % 2 ^ 5 := by rw [hrow]; rfl
      _ = 31 := by rw [concat_div _ m.isLt, concat_mod _ (by decide)]
  · rw [mantissa16_eq, hrow, concat_mod _ m.isLt]
    exact fun hzero => hm (BitVec.eq_of_toNat_eq hzero)

theorem narrowNanMantissa_preserve {f : FloatFormat} (hf : f.CanNarrowFrom) (fill : BitVec 10) {w : Nat} (x : BitVec w) :
    narrowNanMantissa .preserve fill f (f.mantissa x.toNat) =
      (if x.extractLsb' (f.mw - 10) 10 = 0#10 then fill else x.extractLsb' (f.mw - 10) 10).toNat := by
  rw [narrowNanMantissa, FloatFormat.topMantissa_eq_slice hf, apply_ite BitVec.toNat]
  exact if_congr (BitVec.toNat_inj (y := 0#10)) rfl rfl

theorem narrowNanMantissa_preserve_eq_shift {f : FloatFormat} (hf : f.CanNarrowFrom) (fill : BitVec 10) (x : Nat) :
    narrowNanMantissa .preserve fill f (f.mantissa x) =
      if f.mantissa x >>> (f.mw - 10) = 0 then fill.toNat else f.mantissa x >>> (f.mw - 10) := by
  rw [narrowNanMantissa, FloatFormat.topMantissa_eq_shift hf]

theorem narrowNanMantissa_libraryCompat {f : FloatFormat} (hf : f.CanNarrowFrom) (fill : BitVec 10) {w : Nat} (x : BitVec w) :
    narrowNanMantissa .libraryCompat fill f (f.mantissa x.toNat) = (0x200#10 ||| x.extractLsb' (f.mw - 10) 10).toNat := by
  rw [narrowNanMantissa, FloatFormat.topMantissa_eq_slice hf, BitVec.toNat_or]
  rfl

/-- A NaN narrows to its sign, exponent 31 and the mantissa `m` that the parameters choose. -/
theorem ofNat_narrow_nan {f : FloatFormat} (hf : f.CanNarrowFrom) (q : NanQuieting) (fill : BitVec 10) {w : Nat} {x : BitVec w}
    (hnan : f.classOf x.toNat = .nan) {m : BitVec 10} (hm : narrowNanMantissa q fill f (f.mantissa x.toNat) = m.toNat) :
    BitVec.ofNat 16 (narrow q fill f x.toNat) = x.extractLsb' (f.ew + f.mw) 1 ++ 0b11111#5 ++ m := by
  obtain ⟨he, hmant⟩ := (FloatFormat.classOf_eq_nan_iff hf _).mp hnan
  rw [narrow_nan _ _ he hmant, hm, ← f.toNat_signSlice]
  have hsame : BitVec.ofNat 10 m.toNat = m := by simp
  exact (binary16.ofNat_pattern _ (by decide) m.isLt).trans (congrArg _ hsame)

/-- R57 at this hardware's fill, which is not zero, so that the result is a NaN. -/
theorem ofNat_narrow_preserve_nan {f : FloatFormat} (hf : f.CanNarrowFrom) {w : Nat} {x : BitVec w}
    (hnan : f.classOf x.toNat = .nan) :
    let t := x.extractLsb' (f.mw - 10) 10
    let r := BitVec.ofNat 16 (narrow .preserve 0x200#10 f x.toNat)
    r = x.extractLsb' (f.ew + f.mw) 1 ++ 0b11111#5 ++ (if t = 0#10 then 0x200#10 else t) ∧ isNaN16 r = true := by
  intro t r
  have hrow := ofNat_narrow_nan hf _ _ hnan (narrowNanMantissa_preserve hf 0x200#10 x)
  have hfilled : (if t = 0#10 then 0x200#10 else t) ≠ 0#10 := by
    split_ifs with ht
    · decide
    · exact ht
  exact ⟨hrow, (congrArg isNaN16 hrow).trans (isNaN16_specialRow _ hfilled)⟩

/-! ### The tables of R59 and R60 -/

/-- The exponent table of R59 and R60 for the fields of any source format. -/
def narrowTable (f : FloatFormat) {w : Nat} (x : BitVec w) : Half :=
  let S := x.extractLsb' (f.ew + f.mw) 1
  let E := (x.extractLsb' f.mw f.ew).toNat
  let M := (x.extractLsb' 0 f.mw).toNat
  if E = ones f.ew then
    if M = 0 then S ++ 0x7C00#15
    else S ++ 0b11111#5 ++ BitVec.ofNat 10 (if M >>> (f.mw - 10) = 0 then 0x200 else M >>> (f.mw - 10))
  else if f.bias + 16 ≤ E then S ++ 0x7C00#15
  else if f.bias - 14 ≤ E then
    S ++ BitVec.ofNat 15 (((E - (f.bias - 15)) <<< 10) + M >>> (f.mw - 10) +
      Rule.increment (M >>> (f.mw - 10)) (M.testBit (f.mw - 10 - 1)) (M % 2 ^ (f.mw - 10 - 1)))
  else if f.bias - 25 ≤ E then
    let sh := f.bias + f.mw - 24 - E
    let F := 2 ^ f.mw ||| M
    S ++ BitVec.ofNat 15 (F >>> sh + Rule.increment (F >>> sh) (F.testBit (sh - 1)) (F % 2 ^ (sh - 1)))
  else S ++ 0#15

theorem rule_f2h_eq (x : Single) : Rule.f2h x = narrowTable binary32 x := rfl

theorem rule_d2h_eq (x : Double) : Rule.d2h x = narrowTable binary64 x := rfl

theorem ofNat_concat_sign {f : FloatFormat} {w : Nat} (x : BitVec w) {m : Nat} (hm : m < 2 ^ 15) :
    BitVec.ofNat 16 (concat (f.sign x.toNat) m 15) = x.extractLsb' (f.ew + f.mw) 1 ++ BitVec.ofNat 15 m := by
  rw [← f.toNat_signSlice, ← toNat_append_ofNat _ hm, BitVec.ofNat_toNat, BitVec.setWidth_eq]

/-- Rounding to a subnormal result carries to the smallest normal at most: at least `mw - 9` bits of the
mantissa with its leading 1 are discarded. -/
theorem roundNearestEven_subnormal_le {f : FloatFormat} (hf : f.CanNarrowFrom) {m e : Nat} (hm : m < 2 ^ f.mw)
    (he : e < f.bias - 14) : roundNearestEven (2 ^ f.mw + m) (f.bias + f.mw - 24 - e) ≤ 2 ^ 10 := by
  have hleast := hf.least
  have hwide : 2 ^ (f.mw + 1) ≤ 2 ^ (f.bias + f.mw - 24 - e + 10) := Nat.pow_le_pow_right (by decide) (by omega)
  exact roundNearestEven_le (by rw [Nat.pow_succ] at hwide; omega)

/-- With this hardware's parameters the procedure R56 answers the exponent table. -/
theorem ofNat_narrow_preserve {f : FloatFormat} (hf : f.CanNarrowFrom) {w : Nat} (x : BitVec w) :
    BitVec.ofNat 16 (narrow .preserve 0x200#10 f x.toNat) = narrowTable f x := by
  have hmw := hf.mantissa
  have hmant := f.mantissa_lt x.toNat hf.mw_pos
  have hlead : 2 ^ f.mw ||| f.mantissa x.toNat = 2 ^ f.mw + f.mantissa x.toNat := by
    simpa using (Nat.two_pow_add_eq_or_of_lt hmant 1).symm
  have hfill : (if f.mantissa x.toNat >>> (f.mw - 10) = 0 then 0x200 else f.mantissa x.toNat >>> (f.mw - 10)) =
      narrowNanMantissa .preserve 0x200#10 f (f.mantissa x.toNat) :=
    (narrowNanMantissa_preserve_eq_shift hf 0x200#10 _).symm
  simp only [narrowTable, FloatFormat.toNat_exponentSlice hf, FloatFormat.toNat_mantissaSlice hf, hlead, hfill,
    Nat.add_assoc, ← roundNearestEven_eq_increment, Nat.shiftLeft_eq]
  split_ifs with hspecial hzero hover hnormal hsub
  · rw [narrow_infinity _ _ hspecial hzero]
    exact ofNat_concat_sign x (by decide)
  · have hfield := narrowNanMantissa_preserve hf 0x200#10 x
    rw [ofNat_narrow_nan hf _ _ ((FloatFormat.classOf_eq_nan_iff hf _).mpr ⟨hspecial, hzero⟩) hfield, hfield,
      BitVec.ofNat_toNat, BitVec.setWidth_eq]
  · rw [narrow_overflow _ _ hspecial hover]
    exact ofNat_concat_sign x (by decide)
  · have hround : roundNearestEven (f.mantissa x.toNat) (f.mw - 10) ≤ 2 ^ 10 :=
      roundNearestEven_le (by rwa [Nat.sub_add_cancel (by omega)])
    rw [narrow_normal _ _ hf hnormal (by omega)]
    exact ofNat_concat_sign x (by omega)
  · have hround := roundNearestEven_subnormal_le hf hmant (Nat.not_le.mp hnormal)
    rw [narrow_subnormal _ _ hf hsub (by omega)]
    exact ofNat_concat_sign x (by omega)
  · rw [narrow_underflow _ _ hf (by omega)]
    exact ofNat_concat_sign x (by decide)

theorem fp32ToFp16Converter_eq_rule (x : Single) : fp32ToFp16Converter x = Rule.f2h x :=
  (ofNat_narrow_preserve canNarrowFrom_binary32 x).trans (rule_f2h_eq x).symm

theorem fp64ToFp16Converter_eq_rule (x : Double) : fp64ToFp16Converter x = Rule.d2h x :=
  (ofNat_narrow_preserve canNarrowFrom_binary64 x).trans (rule_d2h_eq x).symm

/-- At the exponent of the largest binary16 numbers the table gives infinity exactly when rounding carries out of the
mantissa. -/
theorem narrowTable_eq_infinity_iff {f : FloatFormat} (hf : f.CanNarrowFrom) {w : Nat} {x : BitVec w}
    (he : (x.extractLsb' f.mw f.ew).toNat = f.bias + 15) :
    (narrowTable f x).extractLsb' 0 15 = 0x7C00#15 ↔ 2047 * 2 ^ (f.mw - 11) ≤ (x.extractLsb' 0 f.mw).toNat := by
  have hmw := hf.mantissa
  have hspecial : ¬ f.bias + 15 = ones f.ew := hf.greatest.ne
  have hover : ¬ f.bias + 16 ≤ f.bias + 15 := by omega
  have hnormal : f.bias - 14 ≤ f.bias + 15 := by omega
  have hexp : f.bias + 15 - (f.bias - 15) = 30 := by
    have := hf.least
    omega
  have hround : f.mw - 10 = f.mw - 11 + 1 := by omega
  have hwidth : 2 ^ f.mw = 2048 * 2 ^ (f.mw - 11) := by rw [← Nat.pow_add 2 11, Nat.add_sub_cancel' hmw]
  have hlt : (x.extractLsb' 0 f.mw).toNat < 2048 * 2 ^ (f.mw - 11) := hwidth ▸ BitVec.isLt _
  have hle : roundNearestEven (x.extractLsb' 0 f.mw).toNat (f.mw - 11 + 1) ≤ 1024 :=
    roundNearestEven_le (n := 10) (by rw [← hround, Nat.sub_add_cancel (by omega)]; exact BitVec.isLt _)
  simp only [narrowTable, he, if_neg hspecial, if_neg hover, if_pos hnormal, hexp, Nat.add_assoc,
    ← roundNearestEven_eq_increment, hround]
  rw [← roundNearestEven_eq_carry_iff hlt, BitVec.extractLsb'_append_eq_right, ← BitVec.toNat_inj, BitVec.toNat_ofNat,
    Nat.mod_eq_of_lt (by omega), BitVec.toNat_ofNat]
  omega

/-! ### The statements -/

/-- Settles O8: the procedure R56 at binary32 is the exponent table, and the code `0x2` is F2H's. -/
theorem f2hAnswersItsExponentTable : Obligations.F2hAnswersItsExponentTable := by
  refine ⟨fun s => ⟨fun hdriven => ?_, fun hcode => step_eq_exec hcode (decode_encode .f2h)⟩, fun x he => ?_⟩
  · rw [exec_f2h, answerOne_driven hdriven, fp32ToFp16Converter_eq_rule]
    rfl
  · rw [rule_f2h_eq, BitVec.le_def]
    exact narrowTable_eq_infinity_iff canNarrowFrom_binary32 (congrArg BitVec.toNat he)

/-- Settles O9: the procedure R56 at binary64 is the exponent table, and the code `0x3` is D2H's. -/
theorem d2hAnswersItsExponentTable : Obligations.D2hAnswersItsExponentTable := by
  refine ⟨fun s => ⟨fun hdriven => ?_, fun hcode => step_eq_exec hcode (decode_encode .d2h)⟩, fun x he => ?_⟩
  · have hbus : s.a.low 64 = s.a.value := BitVec.setWidth_eq s.a.value
    rw [exec_d2h, answerOne_driven hdriven, fp64ToFp16Converter_eq_rule, hbus]
    rfl
  · rw [rule_d2h_eq, BitVec.le_def]
    exact narrowTable_eq_infinity_iff canNarrowFrom_binary64 (congrArg BitVec.toNat he)

/-- Settles O37: at both formats the row of fields that R57 gives, whose mantissa is never zero. -/
theorem nansNarrowToNans : Obligations.NansNarrowToNans :=
  ⟨fun _ hnan => ofNat_narrow_preserve_nan canNarrowFrom_binary32 hnan,
    fun _ hnan => ofNat_narrow_preserve_nan canNarrowFrom_binary64 hnan⟩

/-- Settles O39: the parameter enters R56 in the NaN case alone, and there the row of fields is R63's. -/
theorem libraryCompatNarrowingChangesOnlyNans : Obligations.LibraryCompatNarrowingChangesOnlyNans := by
  intro fill
  refine ⟨fun x => ⟨fun hnan => ?_, fun hnan => ?_⟩, fun x => ⟨fun hnan => ?_, fun hnan => ?_⟩⟩
  · exact congrArg (BitVec.ofNat 16) (narrow_parameters_irrelevant canNarrowFrom_binary32 hnan ..)
  · exact ofNat_narrow_nan canNarrowFrom_binary32 _ _ hnan (narrowNanMantissa_libraryCompat canNarrowFrom_binary32 fill x)
  · exact congrArg (BitVec.ofNat 16) (narrow_parameters_irrelevant canNarrowFrom_binary64 hnan ..)
  · exact ofNat_narrow_nan canNarrowFrom_binary64 _ _ hnan (narrowNanMantissa_libraryCompat canNarrowFrom_binary64 fill x)

end Sys2Proof.Machine

/-! # Equality (spec/43_equality.md): HEQ and HNE

The model tests numbers (R40 on `magnitude16`) and the rules test bit vectors, so each test of R40 gets its `↔` between the two
readings. The case list of R65 is then `Rule.eqHolds`, and R66 is its negation. `answerTwo_answers` carries a verdict of a unit
to the wrapper's `r[0]`, for any unit with two operands. -/

namespace Sys2Proof.Machine

/-! ### The tests of R40 in both readings -/

theorem toNat_rule_mag (h : Half) : (Rule.mag h).toNat = magnitude16 h :=
  toNat_extractLsb'_eq_bits h 0 (by decide)

theorem isNaN16_iff_rule_nan (h : Half) : isNaN16 h = true ↔ Rule.nan h := by
  rw [isNaN16, decide_eq_true_iff, Rule.nan, BitVec.lt_def, toNat_rule_mag]
  rfl

theorem bothZero_iff_rule_zeros (a b : Half) : bothZero a b = true ↔ Rule.zeros a b := by
  have hmask : ((a ||| b) &&& 0x7FFF#16).toNat = (a ||| b).toNat % 2 ^ 15 :=
    (BitVec.toNat_and ..).trans (Nat.and_two_pow_sub_one_eq_mod _ 15)
  rw [bothZero, beq_iff_eq, bits_zero_low, Rule.zeros, ← BitVec.toNat_inj, hmask]
  rfl

/-! ### A verdict on `r[0]` -/

theorem answers_zext64_ofBool {v : Bool} {P : Prop} (h : v = true ↔ P) : Rule.Answers (zext64 (BitVec.ofBool v)) P := by
  constructor
  · intro hP
    rw [h.mpr hP]
    rfl
  · intro hP
    rw [Bool.eq_false_iff.mpr (mt h.mp hP)]
    rfl

/-- A two-operand operation whose unit answers a relation `P` of its operands answers `P` of what its ports carry, and changes
nothing but the outputs. -/
theorem answerTwo_answers {f : Half → Half → Bus} {P : Half → Half → Prop}
    (hf : ∀ a b, Rule.Answers (f a b) (P a b)) {s : State} (ha : s.a.lowDriven 16 = true)
    (hb : s.b.lowDriven 16 = true) :
    ∃ r, answerTwo f s = .next { s with r := r, illegal := 0#1 } ∧ Rule.Answers r (P (s.a.value.setWidth 16) s.b.value) := by
  have b16 : s.b.low 16 = s.b.value := BitVec.setWidth_eq s.b.value
  refine ⟨f (s.a.low 16) s.b.value, ?_, hf ..⟩
  rw [answerTwo_driven ha hb, b16]
  rfl

/-! ### The unit fp16_equality_tester -/

/-- R65's case list answers 1 in its two middle cases alone. -/
theorem equal16_iff_rule_eqHolds (a b : Half) : equal16 a b = true ↔ Rule.eqHolds a b := by
  rw [Rule.eqHolds, ← isNaN16_iff_rule_nan, ← isNaN16_iff_rule_nan, ← bothZero_iff_rule_zeros, equal16]
  split
  case isTrue hnan =>
    exact iff_of_false Bool.false_ne_true fun ⟨ha, hb, _⟩ => (Bool.or_eq_true_iff.mp hnan).elim ha hb
  case isFalse hnan =>
    obtain ⟨ha, hb⟩ := not_or.mp (mt Bool.or_eq_true_iff.mpr hnan)
    split
    case isTrue hsame => simp [hb, hsame]
    case isFalse hdiffer => simp [ha, hb, hdiffer]

theorem notEqual16_iff_not_rule_eqHolds (a b : Half) : notEqual16 a b = true ↔ ¬ Rule.eqHolds a b := by
  rw [notEqual16, Bool.not_eq_true', ← equal16_iff_rule_eqHolds, Bool.not_eq_true]

/-! ### The statements -/

/-- Settles O10: the tester's `eq` is R65's relation, and the code `0x4` is HEQ's. -/
theorem heqAnswersPatternEquality : Obligations.HeqAnswersPatternEquality := by
  intro s
  refine ⟨?_, fun hcode => step_eq_exec hcode (decode_encode .heq)⟩
  exact answerTwo_answers fun a b => answers_zext64_ofBool (equal16_iff_rule_eqHolds a b)

/-- Settles O11: the tester's `ne` is the negation of R65's relation, and the code `0x5` is HNE's. -/
theorem hneAnswersTheNegation : Obligations.HneAnswersTheNegation := by
  intro s
  refine ⟨?_, fun hcode => step_eq_exec hcode (decode_encode .hne)⟩
  exact answerTwo_answers fun a b => answers_zext64_ofBool (notEqual16_iff_not_rule_eqHolds a b)

end Sys2Proof.Machine

/-! # Ordering (spec/44_ordering.md): HCMP, HLT, HLE, HGT and HGE

Each operator of the model and of the rules has its own split on the two signs, and the two splits are compared sign by sign
with the tests of R40 in both readings. The NaN test before the split is common to the four relations
(`orderedVerdict_iff`). HCMP answers Unordered on that test, and its other three outcomes are one equation,
`compare16_of_ordered`. -/

namespace Sys2Proof.Machine

/-! ### The leaves of the splits -/

theorem magnitude16_lt_iff_rule_mag (a b : Half) : magnitude16 a < magnitude16 b ↔ Rule.mag a < Rule.mag b := by
  rw [BitVec.lt_def, toNat_rule_mag, toNat_rule_mag]

theorem magnitude16_eq_iff_rule_mag (a b : Half) : magnitude16 a = magnitude16 b ↔ Rule.mag a = Rule.mag b := by
  rw [← BitVec.toNat_inj, toNat_rule_mag, toNat_rule_mag]

theorem decide_magnitude16_lt_iff (a b : Half) :
    decide (magnitude16 a < magnitude16 b) = true ↔ Rule.mag a < Rule.mag b :=
  decide_eq_true_iff.trans (magnitude16_lt_iff_rule_mag a b)

theorem decide_magnitude16_le_iff (a b : Half) :
    decide (magnitude16 a ≤ magnitude16 b) = true ↔ Rule.mag a ≤ Rule.mag b := by
  rw [decide_eq_true_iff, BitVec.le_def, toNat_rule_mag, toNat_rule_mag]

theorem not_bothZero_iff_not_rule_zeros (a b : Half) : (!bothZero a b) = true ↔ ¬ Rule.zeros a b := by
  rw [Bool.not_eq_true', ← bothZero_iff_rule_zeros, Bool.not_eq_true]

/-! ### NaN operands -/

theorem anyNaN16_iff_rule_nan (a b : Half) : (isNaN16 a || isNaN16 b) = true ↔ Rule.nan a ∨ Rule.nan b := by
  rw [Bool.or_eq_true_iff, isNaN16_iff_rule_nan, isNaN16_iff_rule_nan]

/-- The relations of R68 to R71 answer 0 for a NaN operand and else their verdict `v` by the signs. -/
theorem orderedVerdict_iff {a b : Half} {v : Bool} {P : Prop} (h : v = true ↔ P) :
    (if isNaN16 a || isNaN16 b then false else v) = true ↔ ¬ Rule.nan a ∧ ¬ Rule.nan b ∧ P := by
  rw [← and_assoc, ← not_or, ← anyNaN16_iff_rule_nan]
  split
  case isTrue hnan => simp [hnan]
  case isFalse hnan => simp [hnan, h]

/-! ### The relations of R68 to R71, sign by sign -/

theorem less16_iff_rule_ltHolds (a b : Half) : less16 a b = true ↔ Rule.ltHolds a b := by
  refine orderedVerdict_iff ?_
  rw [sign16_eq_msb, sign16_eq_msb]
  cases a.msb <;> cases b.msb
  case false.false => exact decide_magnitude16_lt_iff a b
  case false.true => exact Bool.false_eq_true.to_iff
  case true.false => exact not_bothZero_iff_not_rule_zeros a b
  case true.true => exact decide_magnitude16_lt_iff b a

theorem lessEqual16_iff_rule_leHolds (a b : Half) : lessEqual16 a b = true ↔ Rule.leHolds a b := by
  refine orderedVerdict_iff ?_
  rw [sign16_eq_msb, sign16_eq_msb]
  cases a.msb <;> cases b.msb
  case false.false => exact decide_magnitude16_le_iff a b
  case false.true => exact bothZero_iff_rule_zeros a b
  case true.false => exact iff_of_true rfl trivial
  case true.true => exact decide_magnitude16_le_iff b a

theorem greater16_iff_rule_gtHolds (a b : Half) : greater16 a b = true ↔ Rule.gtHolds a b := by
  refine orderedVerdict_iff ?_
  rw [sign16_eq_msb, sign16_eq_msb]
  cases a.msb <;> cases b.msb
  case false.false => exact decide_magnitude16_lt_iff b a
  case false.true => exact not_bothZero_iff_not_rule_zeros a b
  case true.false => exact iff_of_false Bool.false_ne_true id
  case true.true => exact decide_magnitude16_lt_iff a b

theorem greaterEqual16_iff_rule_geHolds (a b : Half) : greaterEqual16 a b = true ↔ Rule.geHolds a b := by
  refine orderedVerdict_iff ?_
  rw [sign16_eq_msb, sign16_eq_msb]
  cases a.msb <;> cases b.msb
  case false.false => exact decide_magnitude16_le_iff b a
  case false.true => exact iff_of_true rfl trivial
  case true.false => exact bothZero_iff_rule_zeros a b
  case true.true => exact decide_magnitude16_le_iff a b

/-! ### The outcomes of R67 -/

/-- The two outcomes exclude each other: equal magnitudes are not less, and differing signs turn on the zeros alone. -/
theorem not_cmpLess_of_cmpEqual {a b : Half} : Rule.cmpEqual a b → ¬ Rule.cmpLess a b := by
  rw [Rule.cmpEqual, Rule.cmpLess]
  cases a.msb <;> cases b.msb
  case false.false => exact fun hsame hless => BitVec.lt_irrefl _ (hsame ▸ hless)
  case false.true => exact fun _ => id
  case true.false => exact not_not_intro
  case true.true => exact fun hsame hless => BitVec.lt_irrefl _ (hsame ▸ hless)

/-- Where no operand is a NaN, the outcome is R67's, sign by sign. -/
theorem compare16_of_ordered {a b : Half} [Decidable (Rule.cmpLess a b)] [Decidable (Rule.cmpEqual a b)]
    (hnan : ¬ (Rule.nan a ∨ Rule.nan b)) :
    compare16 a b = if Rule.cmpLess a b then .less else if Rule.cmpEqual a b then .equal else .greater := by
  rw [compare16, if_neg (mt (anyNaN16_iff_rule_nan a b).mp hnan), sign16_eq_msb, sign16_eq_msb]
  cases ha : a.msb <;> cases hb : b.msb
  case false.false | true.true =>
    simp [Rule.cmpLess, Rule.cmpEqual, ha, hb, magnitude16_lt_iff_rule_mag, magnitude16_eq_iff_rule_mag]
  case false.true | true.false =>
    by_cases hzeros : Rule.zeros a b <;>
      simp [Rule.cmpLess, Rule.cmpEqual, ha, hb, bothZero_iff_rule_zeros, hzeros]

theorem compare16_of_nan {a b : Half} (hnan : Rule.nan a ∨ Rule.nan b) : compare16 a b = .unordered :=
  if_pos ((anyNaN16_iff_rule_nan a b).mpr hnan)

/-! ### The statements -/

/-- Settles O12: the comparator's outcome is R67's, its code is R48's, and the code `0x6` is HCMP's. -/
theorem hcmpAnswersByTheSigns : Obligations.HcmpAnswersByTheSigns := by
  intro s
  refine ⟨fun ha hb => ?_, fun hcode => step_eq_exec hcode (decode_encode .hcmp)⟩
  classical
  refine ⟨zext64 (compare16 (s.a.value.setWidth 16) s.b.value).code, ?_, fun hnan => ?_, fun hna hnb => ?_⟩
  · exact exec_eq_halfCore (i := .hcmp) (Bool.and_eq_true_iff.mpr ⟨ha, hb⟩)
  · rw [compare16_of_nan hnan]
    rfl
  · rw [compare16_of_ordered (not_or.mpr ⟨hna, hnb⟩)]
    refine ⟨fun hless => ?_, fun heq => ?_, fun hless heq => ?_⟩
    · rw [if_pos hless]
      rfl
    · rw [if_neg (not_cmpLess_of_cmpEqual heq), if_pos heq]
      rfl
    · rw [if_neg hless, if_neg heq]
      rfl

/-- Settles O13: the comparator's `lt` is R68's relation, and the code `0x7` is HLT's. -/
theorem hltAnswersByTheSigns : Obligations.HltAnswersByTheSigns := by
  intro s
  refine ⟨?_, fun hcode => step_eq_exec hcode (decode_encode .hlt)⟩
  exact answerTwo_answers fun a b => answers_zext64_ofBool (less16_iff_rule_ltHolds a b)

/-- Settles O14: the comparator's `le` is R69's relation, and the code `0x8` is HLE's. -/
theorem hleAnswersByTheSigns : Obligations.HleAnswersByTheSigns := by
  intro s
  refine ⟨?_, fun hcode => step_eq_exec hcode (decode_encode .hle)⟩
  exact answerTwo_answers fun a b => answers_zext64_ofBool (lessEqual16_iff_rule_leHolds a b)

/-- Settles O15: the comparator's `gt` is R70's relation, and the code `0x9` is HGT's. -/
theorem hgtAnswersByTheSigns : Obligations.HgtAnswersByTheSigns := by
  intro s
  refine ⟨?_, fun hcode => step_eq_exec hcode (decode_encode .hgt)⟩
  exact answerTwo_answers fun a b => answers_zext64_ofBool (greater16_iff_rule_gtHolds a b)

/-- Settles O16: the comparator's `ge` is R71's relation, and the code `0xA` is HGE's. -/
theorem hgeAnswersByTheSigns : Obligations.HgeAnswersByTheSigns := by
  intro s
  refine ⟨?_, fun hcode => step_eq_exec hcode (decode_encode .hge)⟩
  exact answerTwo_answers fun a b => answers_zext64_ofBool (greaterEqual16_iff_rule_geHolds a b)

end Sys2Proof.Machine

/-! # Reset and hazards (spec/70_reset_and_hazards.md): the first request, and runs that never stop

An instruction completes whether or not something drives the bits it reads, so a step can stop only at a reserved code. A step
keeps the input ports, so a run that begins without a reserved code never meets one: `run_of_accepted` is the one induction. -/

namespace Sys2Proof.Machine

open Sys2Proof.Safety

/-! ### Instructions -/

/-- With some bit it reads not driven, an operation leaves its result free (R85; log entry 2). -/
theorem exec_undriven {i : Instr} {s : State} (h : operandsDriven i s = false) :
    exec i s = .next (s.setUndefinedResult 0#1) := by
  cases i
  case h2f | h2d | f2h | d2h =>
    simp only [exec_h2f, exec_h2d, exec_f2h, exec_d2h]
    exact answerOne_undriven h
  case heq | hne | hcmp | hlt | hle | hgt | hge =>
    simp only [exec_heq, exec_hne, exec_hcmp, exec_hlt, exec_hle, exec_hgt, exec_hge]
    exact answerTwo_undriven h

theorem exec_completes (i : Instr) (s : State) : ∃ t, exec i s = .next t ∧ t.illegal = 0#1 := by
  cases hd : operandsDriven i s with
  | true => exact ⟨_, exec_eq_halfCore hd, rfl⟩
  | false => exact ⟨_, exec_undriven hd, rfl⟩

theorem exec_keeps_inputs {i : Instr} {s t : State} (h : exec i s = .next t) : t.op = s.op ∧ t.a = s.a ∧ t.b = s.b := by
  obtain ⟨-, r, rfl⟩ | ⟨-, rfl⟩ := exec_cases h <;> exact ⟨rfl, rfl, rfl⟩

/-! ### Steps -/

theorem step_keeps_inputs {s t : State} (h : step s = .next t) : t.op = s.op ∧ t.a = s.a ∧ t.b = s.b := by
  obtain ⟨-, rfl⟩ | ⟨op, i, -, -, hexec⟩ := step_cases h
  · exact ⟨rfl, rfl, rfl⟩
  · exact exec_keeps_inputs hexec

/-- A step from a state without a reserved code completes: no code is driven, or the code names an operation. -/
theorem step_completes {s : State} (h : Accepted s) : ∃ t, step s = .next t := by
  cases hcode : s.requestedCode with
  | none => exact ⟨_, step_undriven hcode⟩
  | some op =>
    obtain ⟨i, rfl⟩ := exists_encode_eq_of_codeAccepted (h op hcode)
    obtain ⟨t, ht, -⟩ := exec_completes i s
    exact ⟨t, (step_eq_exec hcode (decode_encode i)).trans ht⟩

/-- Whether a reserved code stands on `op` is a matter of `op` alone. -/
theorem accepted_of_op_eq {s t : State} (hop : t.op = s.op) (h : Accepted s) : Accepted t :=
  fun op hcode => h op ((State.requestedCode_congr hop).symm.trans hcode)

/-! ### Runs -/

theorem run_succ_of_step {M : Host.Core} {n : Nat} {s t : M.State} (h : M.step s = .next t) : M.run (n + 1) s = M.run n t := by
  rw [Host.Core.run, h]

/-- Evaluations that begin without a reserved code complete, with the inputs they began with. -/
theorem run_of_accepted (n : Nat) {s : State} (h : Accepted s) :
    ∃ t : State, core.run n s = .next t ∧ t.op = s.op ∧ t.a = s.a ∧ t.b = s.b := by
  induction n generalizing s with
  | zero => exact ⟨s, rfl, rfl, rfl, rfl⟩
  | succ n ih =>
    obtain ⟨u, hstep⟩ := step_completes h
    obtain ⟨hop, ha, hb⟩ := step_keeps_inputs hstep
    obtain ⟨t, hrun, hop', ha', hb'⟩ := ih (accepted_of_op_eq hop h)
    exact ⟨t, (run_succ_of_step (M := core) hstep).trans hrun, hop'.trans hop, ha'.trans ha, hb'.trans hb⟩

/-! ### The statements -/

/-- Settles O20: the operation drives its result, or leaves it free, and drives `illegal = 0` either way. -/
theorem everyInstructionCompletes : Obligations.EveryInstructionCompletes := exec_completes

/-- Settles O23: both steps answer the wrapper's function of the request's levels, and nothing of the state before. -/
theorem firstRequestAnswersLikeAnyOther : Obligations.FirstRequestAnswersLikeAnyOther := by
  intro s op a b hop
  exact ⟨_, _, step_driveRequest State.reset hop a b, step_driveRequest s hop a b, rfl, rfl⟩

/-- Settles O28: the run completes with the inputs it began with, so again without a reserved code, and it has one outcome. -/
theorem acceptedRequestsNeverStop : Obligations.AcceptedRequestsNeverStop := by
  intro n s h
  obtain ⟨t, hrun, hop, ha, hb⟩ := run_of_accepted n h
  refine ⟨⟨t, hrun⟩, fun t' hrun' => ?_⟩
  cases hrun.symm.trans hrun'
  exact ⟨accepted_of_op_eq hop h, hop, ha, hb⟩

end Sys2Proof.Machine

/-! # Requests and single evaluations: decoding, written requests, frames, undriven inputs, and the invariant of the outputs

A step that completes is `exec` of the operation on `op`, and `exec` has two outcomes: the wrapper's function where the bits read
are driven (`exec_eq_halfCore`), a free result where they are not (`exec_undriven`). Neither reads an output, and neither moves an
input port, so what an evaluation answers once it answers again. -/

namespace Sys2Proof.Machine

open Sys2Proof.Safety

/-! ### Codes and written requests -/

theorem encode_of_decode {op : OpCode} {i : Instr} (h : decode op = .ok i) : encode i = op := by
  cases hop : codeAccepted op with
  | true =>
    obtain ⟨j, rfl⟩ := exists_encode_eq_of_codeAccepted hop
    cases (decode_encode j).symm.trans h
    rfl
  | false => cases (decode_reserved hop).symm.trans h

theorem codeAccepted_eq_false_iff_decode (op : OpCode) :
    codeAccepted op = false ↔ decode op = .error (.reservedCode op) := by
  refine ⟨decode_reserved, fun h => Bool.eq_false_iff.mpr fun hop => ?_⟩
  obtain ⟨i, rfl⟩ := exists_encode_eq_of_codeAccepted hop
  cases (decode_encode i).symm.trans h

/-- An operand narrower than the bus comes back from the bus. -/
theorem setWidth_zext64 {n : Nat} (hn : n ≤ 64) (v : BitVec n) : (zext64 v).setWidth n = v := by
  rw [zext64, BitVec.setWidth_setWidth_of_le v hn, BitVec.setWidth_eq]

theorem Request.levels_op (q : Request) : q.levels.op = encode q.instr := by cases q <;> rfl

theorem Request.levels_request (q : Request) : q.levels.request = .ok q := by
  rw [Levels.request, q.levels_op, decode_encode]
  cases q
  case d2h a => rfl
  case f2h a => exact congrArg (Except.ok <| Request.f2h ·) (setWidth_zext64 (by decide) a)
  case h2f a | h2d a | heq a b | hne a b | hcmp a b | hlt a b | hle a b | hgt a b | hge a b =>
    simp only [Request.instr, Request.levels, setWidth_zext64 (n := 16) (by decide)]

theorem requestedCode_issue (s : State) (q : Request) : (s.issue q).requestedCode = some (encode q.instr) :=
  q.levels_op ▸ State.requestedCode_driveRequest ..

theorem operandsDriven_issue (s : State) (q : Request) : operandsDriven q.instr (s.issue q) = true :=
  operandsDriven_driveRequest ..

/-! ### Undriven inputs -/

theorem requestedCode_undriven {s : State} (h : s.op.driven ≠ BitVec.allOnes 4) : s.requestedCode = none := by
  have hlow : ¬ s.op.lowDriven 4 = true := by rwa [InPort.lowDriven, BitVec.setWidth_eq, beq_iff_eq]
  rw [State.requestedCode, if_neg hlow]

/-! ### The inputs decide the answer -/

@[simp] theorem operandsDriven_setOutputs (i : Instr) (s : State) (r : Bus) (illegal : Bit) :
    operandsDriven i (s.setOutputs r illegal) = operandsDriven i s := by
  cases i <;> rfl

@[simp] theorem operandsDriven_setUndefinedResult (i : Instr) (s : State) (illegal : Bit) :
    operandsDriven i (s.setUndefinedResult illegal) = operandsDriven i s := by
  cases i <;> rfl

/-- An evaluation with a defined code and driven operands leads to a state with the invariant. -/
theorem outputsMatchInputs_setOutputs {s : State} {i : Instr} (hcode : s.requestedCode = some (encode i)) :
    OutputsMatchInputs (s.setOutputs (halfCore (encode i) s.a.value s.b.value).r 0#1) := by
  intro op j hop _ _
  cases hcode.symm.trans hop
  exact ⟨rfl, (halfCore_encode_illegal ..).symm⟩

/-- Where the invariant's premise is not met it says nothing. -/
theorem outputsMatchInputs_of_requestedCode_none {s : State} (h : s.requestedCode = none) : OutputsMatchInputs s :=
  fun _ _ hop => nomatch h.symm.trans hop

/-- Where an operand bit floats it floats after the evaluation too. -/
theorem outputsMatchInputs_setUndefinedResult {s : State} {i : Instr} (hcode : s.requestedCode = some (encode i))
    (hd : operandsDriven i s = false) : OutputsMatchInputs (s.setUndefinedResult 0#1) := by
  intro op j hop hj hdj
  cases hcode.symm.trans hop
  cases (decode_encode i).symm.trans hj
  rw [operandsDriven_setUndefinedResult, hd] at hdj
  cases hdj

/-- Whatever the state before, a step leads to a state with the invariant. -/
theorem outputsMatchInputs_of_step {s t : State} (h : step s = .next t) : OutputsMatchInputs t := by
  obtain ⟨hnone, rfl⟩ | ⟨op, i, hcode, hi, hexec⟩ := step_cases h
  · exact outputsMatchInputs_of_requestedCode_none hnone
  obtain rfl := encode_of_decode hi
  cases hd : operandsDriven i s with
  | true =>
    cases (exec_eq_halfCore hd).symm.trans hexec
    exact outputsMatchInputs_setOutputs hcode
  | false =>
    cases (exec_undriven hd).symm.trans hexec
    exact outputsMatchInputs_setUndefinedResult hcode hd

/-! ### The statements -/

/-- Settles O26: a step that completes drives the wrapper's function of the inputs, which it keeps, or leaves the invariant's
premise unmet as it found it. -/
theorem stepKeepsOutputsMatchingInputs : Obligations.StepKeepsOutputsMatchingInputs :=
  fun _ _ _ h => outputsMatchInputs_of_step h

/-- Settles O27: at reset no code is driven. -/
theorem resetOutputsMatchInputs : Obligations.ResetOutputsMatchInputs :=
  outputsMatchInputs_of_requestedCode_none (requestedCode_undriven (by decide))

/-- Settles O22: the step answers the wrapper's function of the inputs, and the state it leads to has the same inputs. -/
theorem evaluatingAgainChangesNothing : Obligations.EvaluatingAgainChangesNothing := by
  intro s t i hcode hd hstep
  cases (step_eq_halfCore hcode hd).symm.trans hstep
  exact step_eq_halfCore hcode ((operandsDriven_setOutputs ..).trans hd)

/-- Settles O1: the decoder on the nine words. -/
theorem tableWordsDecode : Obligations.TableWordsDecode := by
  unfold Obligations.TableWordsDecode
  decide

/-- Settles O2: the accepted codes are those of the operations, and the decoder refuses the others. -/
theorem decodeAndEncodeAgree : Obligations.DecodeAndEncodeAgree :=
  ⟨decode_encode, fun _ _ => encode_of_decode, codeAccepted_eq_false_iff_decode⟩

/-- Settles O3: the code is the operation's, each operand comes back from its bus, and the host drives every bit. -/
theorem writtenRequestsReadBack : Obligations.WrittenRequestsReadBack :=
  fun q s => ⟨q.levels_request, step_eq_exec (requestedCode_issue s q) (decode_encode _), operandsDriven_issue s q⟩

/-- Settles O4: with a code that decodes, a step has one branch. -/
theorem stepRunsTheDecodedInstruction : Obligations.StepRunsTheDecodedInstruction :=
  fun _ _ _ hcode hi => step_eq_exec hcode hi

/-- Settles O21: both outcomes of an instruction keep the inputs, and only the undriven one takes a free value. -/
theorem instructionsChangeOnlyTheOutputs : Obligations.InstructionsChangeOnlyTheOutputs := by
  intro i s t h
  obtain ⟨hop, ha, hb⟩ := exec_keeps_inputs h
  refine ⟨hop, ha, hb, fun hd => ?_⟩
  cases (exec_eq_halfCore hd).symm.trans h
  rfl

/-- Settles O24: the masks of R44 say the same as the model's own check, and where it fails the result is free. -/
theorem undrivenOperandsLeaveTheResultFree : Obligations.UndrivenOperandsLeaveTheResultFree := by
  intro i s h
  exact exec_undriven (Bool.eq_false_iff.mpr (mt (readsDriven_iff_operandsDriven i s).mpr h))

/-- Settles O25: without every wire of `op` no code is requested. -/
theorem undrivenCodeLeavesBothOutputsFree : Obligations.UndrivenCodeLeavesBothOutputsFree :=
  fun _ h => step_undriven (requestedCode_undriven h)

end Sys2Proof.Machine

/-! # The classes and the order of binary16 (spec/30_encoding.md R36, R40, R41; spec/44_ordering.md)

A pattern is its sign and its magnitude, the 15 bits below. The classes are intervals of magnitudes (`class16_eq_iff`), and the
numbers grow with the magnitude (`steps16_strictMono`), so the patterns are ordered as the integers `orderKey`: the magnitude with
the sign. Every comparison of the model is a comparison of two keys, and so is every comparison of two numbers. -/

namespace Sys2Proof.Machine

/-! ### Fields and magnitude -/

theorem exponent16_eq_magnitude (h : Half) : binary16.exponent h.toNat = magnitude16 h / 1024 := by
  have hfield : binary16.exponent h.toNat = h.toNat / 2 ^ 10 % 2 ^ 5 := rfl
  rw [hfield, magnitude16_eq]
  omega

theorem mantissa16_eq_magnitude (h : Half) : binary16.mantissa h.toNat = magnitude16 h % 1024 := by
  rw [mantissa16_eq, magnitude16_eq]
  omega

theorem magnitude16_lt (h : Half) : magnitude16 h < 32768 := bits_lt h.toNat 14 0

theorem sign16_iff (h : Half) : sign16 h = true ↔ binary16.sign h.toNat = 1 := beq_iff_eq

theorem isNaN16_eq_false_iff (h : Half) : isNaN16 h = false ↔ magnitude16 h ≤ 0x7C00 :=
  decide_eq_false_iff_not.trans Nat.not_lt

/-- A pattern is its sign above its magnitude. -/
theorem toNat_eq_sign_magnitude (h : Half) : h.toNat = (sign16 h).toNat * 32768 + magnitude16 h := by
  have := h.isLt
  rw [sign16, bit_eq_testBit, Nat.toNat_testBit, magnitude16_eq]
  omega

theorem eq_of_sign_of_magnitude {a b : Half} (hs : sign16 a = sign16 b) (hm : magnitude16 a = magnitude16 b) : a = b :=
  BitVec.eq_of_toNat_eq (by rw [toNat_eq_sign_magnitude a, toNat_eq_sign_magnitude b, hs, hm])

/-- The sign bit is above the magnitude. -/
theorem magnitude16_flipSign (h : Half) : magnitude16 (h ^^^ 0x8000#16) = magnitude16 h := by
  have hzero : (0x8000 : Nat) % 2 ^ 15 = 0 := by decide
  rw [magnitude16_eq, magnitude16_eq, BitVec.toNat_xor, BitVec.toNat_ofNat, Nat.xor_mod_two_pow, hzero, Nat.xor_zero]

theorem bothZero_iff (a b : Half) : bothZero a b = true ↔ magnitude16 a = 0 ∧ magnitude16 b = 0 := by
  rw [bothZero, beq_iff_eq, bits_zero_low, magnitude16_eq, magnitude16_eq, BitVec.toNat_or, Nat.or_mod_two_pow,
    Nat.or_eq_zero_iff]

/-! ### Classes -/

/-- The magnitudes of a class. -/
def FpClass.magnitudes : FpClass → Finset Nat
  | .zero      => Finset.Ico 0 1
  | .subnormal => Finset.Ico 1 1024
  | .normal    => Finset.Ico 1024 0x7C00
  | .infinite  => Finset.Ico 0x7C00 0x7C01
  | .nan       => Finset.Ico 0x7C01 32768

theorem class16_eq_classOf (h : Half) : class16 h = binary16.classOf h.toNat := by
  have hones : ones binary16.ew = 31 := rfl
  have he : bits h.toNat 14 10 = binary16.exponent h.toNat := rfl
  have hm : bits h.toNat 9 0 = binary16.mantissa h.toNat := rfl
  have hle : binary16.exponent h.toNat ≤ 30 ↔ ¬ binary16.exponent h.toNat = 31 := by
    have := exponent16_lt h
    omega
  simp only [class16, FloatFormat.classOf, he, hm, hones, hle]
  by_cases hzero : binary16.exponent h.toNat = 0
  · simp [hzero]
  · by_cases hspecial : binary16.exponent h.toNat = 31 <;> simp [hzero, hspecial]

theorem class16_mem_magnitudes (h : Half) : magnitude16 h ∈ (class16 h).magnitudes := by
  have hlt := magnitude16_lt h
  have hones : ones binary16.ew = 31 := rfl
  rw [class16_eq_classOf, FloatFormat.classOf]
  simp only [exponent16_eq_magnitude, mantissa16_eq_magnitude, hones]
  split_ifs <;> simp only [FpClass.magnitudes, Finset.mem_Ico] <;> omega

/-- The classes are disjoint intervals. -/
theorem FpClass.eq_of_mem_magnitudes {c d : FpClass} {n : Nat} (hc : n ∈ c.magnitudes) (hd : n ∈ d.magnitudes) : c = d := by
  cases c <;> cases d <;> simp only [magnitudes, Finset.mem_Ico, reduceCtorEq] at hc hd ⊢ <;> omega

theorem class16_eq_iff (h : Half) (c : FpClass) : class16 h = c ↔ magnitude16 h ∈ c.magnitudes :=
  ⟨fun hc => hc ▸ class16_mem_magnitudes h, FpClass.eq_of_mem_magnitudes (class16_mem_magnitudes h)⟩

theorem isNaN16_iff_class (h : Half) : isNaN16 h = true ↔ class16 h = .nan := by
  have hlt := magnitude16_lt h
  rw [class16_eq_iff, FpClass.magnitudes, Finset.mem_Ico, isNaN16, decide_eq_true_iff]
  omega

theorem isInf16_iff_class (h : Half) : isInf16 h = true ↔ class16 h = .infinite := by
  rw [class16_eq_iff, FpClass.magnitudes, Finset.mem_Ico, isInf16, beq_iff_eq]
  omega

theorem isZero16_iff_class (h : Half) : isZero16 h = true ↔ class16 h = .zero := by
  rw [class16_eq_iff, FpClass.magnitudes, Finset.mem_Ico, isZero16, beq_iff_eq]
  omega

/-- The class looks at the magnitude alone. -/
theorem class16_congr {a b : Half} (hm : magnitude16 a = magnitude16 b) : class16 a = class16 b :=
  (class16_eq_iff a _).mpr (hm ▸ class16_mem_magnitudes b)

/-! ### Counting the classes: each magnitude stands under both signs -/

theorem FpClass.magnitudes_subset (c : FpClass) : c.magnitudes ⊆ Finset.range 32768 := by
  intro n hn
  rw [Finset.mem_range]
  cases c <;> simp only [magnitudes, Finset.mem_Ico] at hn <;> omega

/-- In one period every member of a set of residues is met once. -/
theorem count_mod_mem {S : Finset Nat} {m : Nat} (hS : S ⊆ Finset.range m) : Nat.count (· % m ∈ S) m = S.card := by
  rw [Nat.count_eq_card_filter_range]
  congr 1
  ext n
  rw [Finset.mem_filter, Finset.mem_range]
  constructor
  · rintro ⟨hlt, hmem⟩
    rwa [Nat.mod_eq_of_lt hlt] at hmem
  · intro hmem
    have hlt := Finset.mem_range.mp (hS hmem)
    exact ⟨hlt, by rwa [Nat.mod_eq_of_lt hlt]⟩

theorem class16_ofNat_eq_iff {n : Nat} (c : FpClass) : class16 (BitVec.ofNat 16 n) = c ↔ n % 32768 ∈ c.magnitudes := by
  have hmag : magnitude16 (BitVec.ofNat 16 n) = n % 32768 := by
    rw [magnitude16_eq, BitVec.toNat_ofNat]
    omega
  rw [class16_eq_iff, hmag]

theorem count_class16 (c : FpClass) :
    ((List.range 65536).countP fun n => class16 (BitVec.ofNat 16 n) = c) = 2 * c.magnitudes.card :=
  calc ((List.range 65536).countP fun n => class16 (BitVec.ofNat 16 n) = c)
    _ = Nat.count (· % 32768 ∈ c.magnitudes) (32768 + 32768) := by simp only [class16_ofNat_eq_iff]; rfl
    _ = 2 * c.magnitudes.card := by
      rw [Nat.count_add]
      simp only [Nat.add_mod_left, count_mod_mem c.magnitudes_subset]
      exact (Nat.two_mul _).symm

/-! ### The value formula in steps -/

/-- The units of `2^-1074` in the least subnormal of a format. -/
def FloatFormat.unitsPerStep (f : FloatFormat) : Nat := 2 ^ (1075 - f.bias - f.mw)

theorem FloatFormat.unitsPerStep_pos (f : FloatFormat) : 0 < f.unitsPerStep := Nat.two_pow_pos _

/-- The magnitude of the value formula, in least subnormals of the format. -/
def FloatFormat.steps (f : FloatFormat) (x : Nat) : Nat :=
  if f.exponent x = 0 then f.mantissa x else (2 ^ f.mw + f.mantissa x) * 2 ^ (f.exponent x - 1)

theorem FloatFormat.units_eq (f : FloatFormat) (x : Nat) : f.units x = signed (f.sign x) (f.steps x * f.unitsPerStep) := rfl

/-- The number of a magnitude in steps of the least subnormal, infinity as the value next above the largest finite number. -/
def steps16 (n : Nat) : Nat := if n / 1024 = 0 then n % 1024 else (1024 + n % 1024) * 2 ^ (n / 1024 - 1)

theorem steps_eq_steps16 (h : Half) : binary16.steps h.toNat = steps16 (magnitude16 h) := by
  have hlead : 2 ^ binary16.mw = 1024 := rfl
  simp only [steps16, FloatFormat.steps, exponent16_eq_magnitude, mantissa16_eq_magnitude, hlead]

theorem units16_eq (h : Half) :
    binary16.units h.toNat =
      signed (binary16.sign h.toNat) (steps16 (magnitude16 h) * binary16.unitsPerStep) := by
  rw [FloatFormat.units_eq, steps_eq_steps16]

@[simp] theorem steps16_zero : steps16 0 = 0 := rfl

/-- Within a binade, its upper end included, the magnitudes count equal steps. -/
theorem steps16_normal {e j : Nat} (he : 1 ≤ e) (hj : j ≤ 1024) : steps16 (e * 1024 + j) = (1024 + j) * 2 ^ (e - 1) := by
  obtain hlt | rfl := Nat.lt_or_eq_of_le hj
  · have hdiv : (e * 1024 + j) / 1024 = e := by omega
    have hmod : (e * 1024 + j) % 1024 = j := by omega
    rw [steps16, hdiv, hmod, if_neg (by omega)]
  · have hdiv : (e * 1024 + 1024) / 1024 = e - 1 + 1 + 1 := by omega
    have hmod : (e * 1024 + 1024) % 1024 = 0 := by omega
    rw [steps16, hdiv, hmod, if_neg (by omega), Nat.add_sub_cancel, Nat.pow_succ]
    omega

theorem steps16_subnormal {j : Nat} (hj : j ≤ 1024) : steps16 j = j := by
  obtain hlt | rfl := Nat.lt_or_eq_of_le hj
  · rw [steps16, if_pos (by omega), Nat.mod_eq_of_lt hlt]
  · rfl

theorem steps16_strictMono : StrictMono steps16 := by
  refine strictMono_nat_of_lt_succ fun n => ?_
  have hj : n % 1024 < 1024 := Nat.mod_lt n (by decide)
  have hn : n / 1024 * 1024 + n % 1024 = n := Nat.div_add_mod' n 1024
  obtain hzero | hpos := Nat.eq_zero_or_pos (n / 1024)
  · rw [steps16_subnormal (by omega), steps16_subnormal (by omega)]
    exact Nat.lt_succ_self n
  · rw [← hn, Nat.add_assoc, steps16_normal hpos hj.le, steps16_normal hpos hj]
    exact Nat.mul_lt_mul_of_pos_right (by omega) (Nat.two_pow_pos _)

/-! ### The order of patterns -/

/-- The patterns that are not NaN are ordered as their magnitudes with the sign; the two zeros have one key. -/
def orderKey (h : Half) : Int := signed (binary16.sign h.toNat) (magnitude16 h)

theorem signed_lt_signed_iff {g : Nat → Nat} (hg : StrictMono g) (hzero : g 0 = 0) (s t m n : Nat) :
    signed s (g m) < signed t (g n) ↔ signed s m < signed t n := by
  have hlt : g m < g n ↔ m < n := hg.lt_iff_lt
  have hgt : g n < g m ↔ n < m := hg.lt_iff_lt
  have hm : 0 < g m ↔ 0 < m := by simpa [hzero] using hg.lt_iff_lt (a := 0) (b := m)
  have hn : 0 < g n ↔ 0 < n := by simpa [hzero] using hg.lt_iff_lt (a := 0) (b := n)
  simp only [signed]
  split_ifs <;> omega

theorem units16_lt_iff (a b : Half) : binary16.units a.toNat < binary16.units b.toNat ↔ orderKey a < orderKey b := by
  have hunits : StrictMono fun n => steps16 n * binary16.unitsPerStep :=
    fun _ _ h => Nat.mul_lt_mul_of_pos_right (steps16_strictMono h) binary16.unitsPerStep_pos
  have hzero : steps16 0 * binary16.unitsPerStep = 0 := by rw [steps16_zero, Nat.zero_mul]
  rw [units16_eq, units16_eq]
  exact signed_lt_signed_iff hunits hzero ..

theorem orderKey_of_positive {h : Half} (hs : sign16 h = false) : orderKey h = magnitude16 h :=
  if_neg (mt (sign16_iff h).mpr (Bool.eq_false_iff.mp hs))

theorem orderKey_of_negative {h : Half} (hs : sign16 h = true) : orderKey h = -(magnitude16 h : Int) :=
  if_pos ((sign16_iff h).mp hs)

section Ordered

variable {a b : Half} (hnan : (isNaN16 a || isNaN16 b) = false)
include hnan

theorem less16_iff_orderKey : less16 a b = true ↔ orderKey a < orderKey b := by
  rw [less16, hnan]
  cases ha : sign16 a <;> cases hb : sign16 b <;>
    grind [orderKey_of_positive, orderKey_of_negative, bothZero_iff]

theorem lessEqual16_iff_orderKey : lessEqual16 a b = true ↔ orderKey a ≤ orderKey b := by
  rw [lessEqual16, hnan]
  cases ha : sign16 a <;> cases hb : sign16 b <;>
    grind [orderKey_of_positive, orderKey_of_negative, bothZero_iff]

theorem greater16_iff_orderKey : greater16 a b = true ↔ orderKey b < orderKey a := by
  rw [greater16, hnan]
  cases ha : sign16 a <;> cases hb : sign16 b <;>
    grind [orderKey_of_positive, orderKey_of_negative, bothZero_iff]

theorem greaterEqual16_iff_orderKey : greaterEqual16 a b = true ↔ orderKey b ≤ orderKey a := by
  rw [greaterEqual16, hnan]
  cases ha : sign16 a <;> cases hb : sign16 b <;>
    grind [orderKey_of_positive, orderKey_of_negative, bothZero_iff]

end Ordered

/-! ### The statements -/

/-- Settles O29: the classification and the three predicates of R40 test the magnitude, for the intervals of the classes. -/
theorem classesAreByExponentAndMantissa : Obligations.ClassesAreByExponentAndMantissa := fun h =>
  ⟨class16_eq_classOf h, class16_congr (magnitude16_flipSign h), isNaN16_iff_class h, isInf16_iff_class h,
    isZero16_iff_class h⟩

/-- Settles O30: each class has twice as many patterns as magnitudes. -/
theorem classCounts : Obligations.ClassCounts := by
  unfold Obligations.ClassCounts
  intro count
  have hcount : ∀ c, count c = 2 * c.magnitudes.card := count_class16
  simp only [hcount, FpClass.magnitudes, Nat.card_Ico]
  decide

end Sys2Proof.Machine

/-! # Comparison against the order of numbers (spec/43_equality.md, spec/44_ordering.md R72, spec/30_encoding.md R48)

Where no operand is a NaN, each unit compares the two keys (`orderKey`), and so does each comparison of the two numbers
(`less_iff_orderKey`, `number_eq_iff_orderKey`): the value of the numbers in units, infinity as the next value above the finite
ones, is ordered as the key is. -/

namespace Sys2Proof.Machine

/-! ### The outcomes of the units -/

section Ordered

variable {a b : Half} (hnan : (isNaN16 a || isNaN16 b) = false)
include hnan

theorem equal16_iff_orderKey : equal16 a b = true ↔ orderKey a = orderKey b := by
  have heq : equal16 a b = true ↔ a = b ∨ bothZero a b = true := by
    rw [equal16, hnan]
    by_cases hsame : a = b <;> simp [hsame]
  have hsame : a = b ↔ sign16 a = sign16 b ∧ magnitude16 a = magnitude16 b :=
    ⟨fun h => h ▸ ⟨rfl, rfl⟩, fun h => eq_of_sign_of_magnitude h.1 h.2⟩
  rw [heq, hsame, bothZero_iff]
  cases ha : sign16 a <;> cases hb : sign16 b <;>
    grind [orderKey_of_positive, orderKey_of_negative]

theorem compare16_eq_orderKey :
    compare16 a b = if orderKey a < orderKey b then .less else if orderKey a = orderKey b then .equal else .greater := by
  rw [compare16, hnan]
  cases ha : sign16 a <;> cases hb : sign16 b <;>
    grind [orderKey_of_positive, orderKey_of_negative, bothZero_iff]

theorem compare16_eq_less_iff : compare16 a b = .less ↔ orderKey a < orderKey b := by
  rw [compare16_eq_orderKey hnan]
  split_ifs with hlt heq
  · simp [hlt]
  · simp [heq]
  · simp [hlt]

theorem compare16_eq_equal_iff : compare16 a b = .equal ↔ orderKey a = orderKey b := by
  rw [compare16_eq_orderKey hnan]
  split_ifs with hlt heq
  · simp [hlt.ne]
  · simp [heq]
  · simp [heq]

theorem compare16_eq_greater_iff : compare16 a b = .greater ↔ orderKey b < orderKey a := by
  rw [compare16_eq_orderKey hnan]
  split_ifs with hlt heq
  · simp [hlt.le]
  · simp [heq]
  · simpa using lt_of_le_of_ne (not_lt.mp hlt) (Ne.symm heq)

theorem lessEqual16_eq_or : lessEqual16 a b = (less16 a b || equal16 a b) := by
  rw [Bool.eq_iff_iff, Bool.or_eq_true_iff, lessEqual16_iff_orderKey hnan, less16_iff_orderKey hnan,
    equal16_iff_orderKey hnan, le_iff_lt_or_eq]

theorem greaterEqual16_eq_or : greaterEqual16 a b = (greater16 a b || equal16 a b) := by
  rw [Bool.eq_iff_iff, Bool.or_eq_true_iff, greaterEqual16_iff_orderKey hnan, greater16_iff_orderKey hnan,
    equal16_iff_orderKey hnan, le_iff_lt_or_eq, eq_comm]

end Ordered

section Unordered

variable {a b : Half} (hnan : (isNaN16 a || isNaN16 b) = true)
include hnan

theorem less16_of_nan : less16 a b = false := if_pos hnan

theorem lessEqual16_of_nan : lessEqual16 a b = false := if_pos hnan

theorem greater16_of_nan : greater16 a b = false := if_pos hnan

theorem greaterEqual16_of_nan : greaterEqual16 a b = false := if_pos hnan

theorem equal16_of_nan : equal16 a b = false := if_pos hnan

theorem notEqual16_of_nan : notEqual16 a b = true := congrArg not (equal16_of_nan hnan)

theorem compare16_of_anyNaN16 : compare16 a b = .unordered := if_pos hnan

end Unordered

theorem compare16_eq_unordered_iff (a b : Half) : compare16 a b = .unordered ↔ (isNaN16 a || isNaN16 b) = true := by
  refine ⟨fun h => ?_, compare16_of_anyNaN16⟩
  by_contra hnan
  rw [compare16_eq_orderKey (Bool.eq_false_iff.mpr hnan)] at h
  split_ifs at h

theorem equal16_comm (a b : Half) : equal16 a b = equal16 b a := by
  have hsym : (isNaN16 b || isNaN16 a) = (isNaN16 a || isNaN16 b) := Bool.or_comm ..
  cases hnan : isNaN16 a || isNaN16 b with
  | true => rw [equal16_of_nan hnan, equal16_of_nan (hsym.trans hnan)]
  | false => rw [Bool.eq_iff_iff, equal16_iff_orderKey hnan, equal16_iff_orderKey (hsym.trans hnan), eq_comm]

theorem less16_swap (a b : Half) : less16 a b = greater16 b a := by
  have hsym : (isNaN16 b || isNaN16 a) = (isNaN16 a || isNaN16 b) := Bool.or_comm ..
  cases hnan : isNaN16 a || isNaN16 b with
  | true => rw [less16_of_nan hnan, greater16_of_nan (hsym.trans hnan)]
  | false => rw [Bool.eq_iff_iff, less16_iff_orderKey hnan, greater16_iff_orderKey (hsym.trans hnan)]

theorem lessEqual16_swap (a b : Half) : lessEqual16 a b = greaterEqual16 b a := by
  have hsym : (isNaN16 b || isNaN16 a) = (isNaN16 a || isNaN16 b) := Bool.or_comm ..
  cases hnan : isNaN16 a || isNaN16 b with
  | true => rw [lessEqual16_of_nan hnan, greaterEqual16_of_nan (hsym.trans hnan)]
  | false => rw [Bool.eq_iff_iff, lessEqual16_iff_orderKey hnan, greaterEqual16_iff_orderKey (hsym.trans hnan)]

/-- Exactly one of the three strict relations holds. -/
theorem trichotomy16 {a b : Half} (hnan : (isNaN16 a || isNaN16 b) = false) :
    (less16 a b = true ∧ equal16 a b = false ∧ greater16 a b = false) ∨
    (less16 a b = false ∧ equal16 a b = true ∧ greater16 a b = false) ∨
    (less16 a b = false ∧ equal16 a b = false ∧ greater16 a b = true) := by
  simp only [← Bool.not_eq_true, less16_iff_orderKey hnan, equal16_iff_orderKey hnan, greater16_iff_orderKey hnan]
  omega

/-! ### The value of a number -/

/-- A number as an integer, infinities at the limits. -/
def Number.value (limit : Int) : Number → Int
  | .negInfinity => -limit
  | .finite u    => u
  | .posInfinity => limit

/-- The finite numbers lie between the limits. -/
def Number.Within (limit : Int) : Number → Prop
  | .finite u => -limit < u ∧ u < limit
  | .negInfinity | .posInfinity => 0 < limit

theorem Number.less_iff_value {limit : Int} {p q : Number} (hp : p.Within limit) (hq : q.Within limit) :
    p.less q = true ↔ p.value limit < q.value limit := by
  cases p <;> cases q <;> simp_all [less, value, Within] <;> omega

theorem Number.eq_iff_value {limit : Int} {p q : Number} (hp : p.Within limit) (hq : q.Within limit) :
    p = q ↔ p.value limit = q.value limit := by
  cases p <;> cases q <;> simp_all [value, Within] <;> omega

/-! ### Numbers of binary16 -/

/-- What the value formula gives for infinity. -/
def infinityUnits16 : Int := (steps16 0x7C00 * binary16.unitsPerStep : Nat)

theorem numberOf16_of_nan {h : Half} (hnan : isNaN16 h = true) : binary16.numberOf h.toNat = none := by
  rw [FloatFormat.numberOf, ← class16_eq_classOf, (isNaN16_iff_class h).mp hnan]

theorem signed_eq_ite (s n : Nat) : signed s n = if s = 1 then -(n : Int) else n := rfl

/-- The formula gives a finite number a value between the limits. -/
theorem units16_within {h : Half} (hfin : magnitude16 h < 0x7C00) :
    -infinityUnits16 < binary16.units h.toNat ∧ binary16.units h.toNat < infinityUnits16 := by
  have hlt := Nat.mul_lt_mul_of_pos_right (steps16_strictMono hfin) binary16.unitsPerStep_pos
  rw [units16_eq, signed_eq_ite, infinityUnits16]
  split_ifs <;> omega

theorem units16_of_infinite {h : Half} (hinf : magnitude16 h = 0x7C00) :
    binary16.units h.toNat = if binary16.sign h.toNat = 1 then -infinityUnits16 else infinityUnits16 := by
  rw [units16_eq, hinf]
  rfl

theorem infinityUnits16_pos : 0 < infinityUnits16 :=
  Int.natCast_pos.mpr (Nat.mul_pos (steps16_strictMono (a := 0) (by decide)) binary16.unitsPerStep_pos)

/-- A pattern that is not a NaN has a number, whose value is that of the formula, and the finite ones are below infinity. -/
theorem exists_number16 {h : Half} (hnan : isNaN16 h = false) :
    ∃ p, binary16.numberOf h.toNat = some p ∧ p.Within infinityUnits16 ∧
      p.value infinityUnits16 = binary16.units h.toNat := by
  have hmag := (class16_eq_iff h _).mp rfl
  rw [FloatFormat.numberOf, ← class16_eq_classOf]
  cases hclass : class16 h <;> simp only [hclass, FpClass.magnitudes, Finset.mem_Ico] at hmag
  case zero | subnormal | normal => exact ⟨_, rfl, units16_within (by omega), rfl⟩
  case infinite =>
    refine ⟨_, rfl, ?_, ?_⟩
    · split_ifs <;> exact infinityUnits16_pos
    · rw [units16_of_infinite (by omega)]
      split_ifs <;> rfl
  case nan => exact absurd ((isNaN16_iff_class h).mpr hclass) (Bool.eq_false_iff.mp hnan)

theorem numberOf16_eq_none_iff (h : Half) : binary16.numberOf h.toNat = none ↔ isNaN16 h = true := by
  refine ⟨fun hnone => ?_, numberOf16_of_nan⟩
  by_contra hnan
  obtain ⟨p, hp, -⟩ := exists_number16 (Bool.eq_false_iff.mpr hnan)
  cases hnone.symm.trans hp

theorem number16_represents {h : Half} {p : Number} (hp : binary16.numberOf h.toNat = some p) :
    p.Within infinityUnits16 ∧ p.value infinityUnits16 = binary16.units h.toNat := by
  cases hnan : isNaN16 h with
  | true => cases (numberOf16_of_nan hnan).symm.trans hp
  | false =>
    obtain ⟨q, hq, hrep⟩ := exists_number16 hnan
    cases hq.symm.trans hp
    exact hrep

section Numbers

variable {a b : Half} {p q : Number} (hp : binary16.numberOf a.toNat = some p) (hq : binary16.numberOf b.toNat = some q)
include hp hq

/-- Numbers are ordered as the keys of their patterns. -/
theorem less_iff_orderKey : p.less q = true ↔ orderKey a < orderKey b := by
  obtain ⟨hpin, hpval⟩ := number16_represents hp
  obtain ⟨hqin, hqval⟩ := number16_represents hq
  rw [Number.less_iff_value hpin hqin, hpval, hqval, units16_lt_iff]

theorem number_eq_iff_orderKey : p = q ↔ orderKey a = orderKey b := by
  obtain ⟨hpin, hpval⟩ := number16_represents hp
  obtain ⟨hqin, hqval⟩ := number16_represents hq
  have hab := units16_lt_iff a b
  have hba := units16_lt_iff b a
  rw [Number.eq_iff_value hpin hqin, hpval, hqval]
  omega

theorem ordered_of_numbers : (isNaN16 a || isNaN16 b) = false := by
  rw [Bool.or_eq_false_iff, ← Bool.not_eq_true, ← Bool.not_eq_true, ← numberOf16_eq_none_iff, ← numberOf16_eq_none_iff,
    hp, hq]
  exact ⟨nofun, nofun⟩

end Numbers

/-! ### The IEEE comparison of two patterns -/

section Ieee

variable {f : FloatFormat} {x y : Nat}

theorem ieeeLess_of_numbers {p q : Number} (hp : f.numberOf x = some p) (hq : f.numberOf y = some q) :
    Rule.ieeeLess f x y = p.less q := by
  rw [Rule.ieeeLess, hp, hq]

theorem ieeeEqual_of_numbers {p q : Number} (hp : f.numberOf x = some p) (hq : f.numberOf y = some q) :
    Rule.ieeeEqual f x y = (p == q) := by
  rw [Rule.ieeeEqual, hp, hq]

theorem ieeeLess_of_none (h : f.numberOf x = none ∨ f.numberOf y = none) : Rule.ieeeLess f x y = false := by
  rw [Rule.ieeeLess]
  obtain h | h := h
  · rw [h]
  · rw [h]
    cases f.numberOf x <;> rfl

theorem ieeeEqual_of_none (h : f.numberOf x = none ∨ f.numberOf y = none) : Rule.ieeeEqual f x y = false := by
  rw [Rule.ieeeEqual]
  obtain h | h := h
  · rw [h]
  · rw [h]
    cases f.numberOf x <;> rfl

end Ieee

/-- The comparison of numbers does not depend on the format that holds them. -/
theorem comparesAs_congr {f g : FloatFormat} {a b : Half} {x y x' y' : Nat} (hx : f.numberOf x = g.numberOf x')
    (hy : f.numberOf y = g.numberOf y') (h : Rule.ComparesAs g a b x' y') : Rule.ComparesAs f a b x y := by
  have hless : Rule.ieeeLess f x y = Rule.ieeeLess g x' y' := by rw [Rule.ieeeLess, Rule.ieeeLess, hx, hy]
  have hgreater : Rule.ieeeLess f y x = Rule.ieeeLess g y' x' := by rw [Rule.ieeeLess, Rule.ieeeLess, hx, hy]
  have hequal : Rule.ieeeEqual f x y = Rule.ieeeEqual g x' y' := by rw [Rule.ieeeEqual, Rule.ieeeEqual, hx, hy]
  rwa [Rule.ComparesAs, hless, hgreater, hequal]

theorem comparesAs_of_nan {a b : Half} (hnan : (isNaN16 a || isNaN16 b) = true) :
    Rule.ComparesAs binary16 a b a.toNat b.toNat := by
  have hnone : binary16.numberOf a.toNat = none ∨ binary16.numberOf b.toNat = none := by
    rwa [numberOf16_eq_none_iff, numberOf16_eq_none_iff, ← Bool.or_eq_true_iff]
  simp [Rule.ComparesAs, ieeeLess_of_none hnone, ieeeLess_of_none hnone.symm, ieeeEqual_of_none hnone, less16_of_nan hnan,
    lessEqual16_of_nan hnan, greater16_of_nan hnan, greaterEqual16_of_nan hnan, equal16_of_nan hnan,
    notEqual16_of_nan hnan, compare16_of_anyNaN16 hnan]

theorem comparesAs_of_ordered {a b : Half} (hnan : (isNaN16 a || isNaN16 b) = false) :
    Rule.ComparesAs binary16 a b a.toNat b.toNat := by
  obtain ⟨hna, hnb⟩ := Bool.or_eq_false_iff.mp hnan
  obtain ⟨p, hp, -⟩ := exists_number16 hna
  obtain ⟨q, hq, -⟩ := exists_number16 hnb
  have hless : less16 a b = p.less q := by rw [Bool.eq_iff_iff, less16_iff_orderKey hnan, less_iff_orderKey hp hq]
  have hgreater : greater16 a b = q.less p := by rw [Bool.eq_iff_iff, greater16_iff_orderKey hnan, less_iff_orderKey hq hp]
  have hequal : equal16 a b = (p == q) := by
    rw [Bool.eq_iff_iff, beq_iff_eq, equal16_iff_orderKey hnan, number_eq_iff_orderKey hp hq]
  rw [Rule.ComparesAs, ieeeLess_of_numbers hp hq, ieeeLess_of_numbers hq hp, ieeeEqual_of_numbers hp hq, ← hless, ← hgreater,
    ← hequal]
  refine ⟨rfl, rfl, rfl, rfl, lessEqual16_eq_or hnan, greaterEqual16_eq_or hnan, ?_⟩
  obtain ⟨hl, he, hg⟩ | ⟨hl, he, hg⟩ | ⟨hl, he, hg⟩ := trichotomy16 hnan
  · simp [hl, compare16_eq_less_iff hnan, ← less16_iff_orderKey hnan]
  · simp [hl, he, compare16_eq_equal_iff hnan, ← equal16_iff_orderKey hnan]
  · simp [hl, he, hg, compare16_eq_greater_iff hnan, ← greater16_iff_orderKey hnan]

theorem comparesAs_binary16 (a b : Half) : Rule.ComparesAs binary16 a b a.toNat b.toNat := by
  cases hnan : isNaN16 a || isNaN16 b with
  | true => exact comparesAs_of_nan hnan
  | false => exact comparesAs_of_ordered hnan

/-! ### The codes on the ports -/

theorem Comparison.code_inj {c d : Comparison} : c.code = d.code ↔ c = d := by
  cases c <;> cases d <;> decide

theorem ofBool_eq_one_iff (v : Bool) : BitVec.ofBool v = 1#1 ↔ v = true := by cases v <;> decide

/-! ### The statements -/

/-- Settles O44: each code is one outcome, Unordered is the NaN test, and the others are the order of the keys. -/
theorem hcmpCodesAreTheFourOutcomes : Obligations.HcmpCodesAreTheFourOutcomes := by
  intro a b ord x y
  have hcode : ∀ c : Comparison, ord = c.code ↔ compare16 a b = c := fun _ => Comparison.code_inj
  refine ⟨?_, fun p q hp hq => ?_⟩
  · refine (hcode .unordered).trans ?_
    rw [compare16_eq_unordered_iff, Bool.or_eq_true_iff, ← numberOf16_eq_none_iff, ← numberOf16_eq_none_iff]
  · have hnan := ordered_of_numbers hp hq
    rw [less_iff_orderKey hp hq, less_iff_orderKey hq hp, number_eq_iff_orderKey hp hq]
    exact ⟨(hcode .less).trans (compare16_eq_less_iff hnan), (hcode .equal).trans (compare16_eq_equal_iff hnan),
      (hcode .greater).trans (compare16_eq_greater_iff hnan)⟩

/-- Settles O45: HEQ compares the keys, as equality of numbers does. -/
theorem heqIsEqualityOfNumbers : Obligations.HeqIsEqualityOfNumbers := by
  intro a b
  refine ⟨congrArg BitVec.ofBool (equal16_comm a b), fun hna hnb => ?_⟩
  obtain ⟨p, hp, -⟩ := exists_number16 hna
  obtain ⟨q, hq, -⟩ := exists_number16 hnb
  rw [hp, hq, Option.some_inj, number_eq_iff_orderKey hp hq, ← equal16_iff_orderKey (ordered_of_numbers hp hq)]
  exact ofBool_eq_one_iff _

/-- Settles O46: each law is one of the integers `orderKey`. -/
theorem comparatorLaws : Obligations.ComparatorLaws := by
  intro a b
  refine ⟨fun hnan => ?_, fun hna hnb => ?_, less16_swap a b, lessEqual16_swap a b⟩
  · have hnan := Bool.or_eq_true_iff.mpr hnan
    exact ⟨compare16_of_anyNaN16 hnan, less16_of_nan hnan, lessEqual16_of_nan hnan, greater16_of_nan hnan,
      greaterEqual16_of_nan hnan, equal16_of_nan hnan, notEqual16_of_nan hnan⟩
  · have hnan := Bool.or_eq_false_iff.mpr ⟨hna, hnb⟩
    refine ⟨trichotomy16 hnan, ?_, ?_, ?_, lessEqual16_eq_or hnan, greaterEqual16_eq_or hnan⟩
    · rw [compare16_eq_less_iff hnan, less16_iff_orderKey hnan]
    · rw [compare16_eq_equal_iff hnan, equal16_iff_orderKey hnan]
    · rw [compare16_eq_greater_iff hnan, greater16_iff_orderKey hnan]

end Sys2Proof.Machine

/-! # Widening is exact (spec/41_widen.md R51, R54; spec/44_ordering.md R72)

The fields of a widened pattern are read back from `FloatFormat.pattern`, case by case of R51. In each case they stand for the same
number of units as the binary16 pattern (`steps_widen`), so the numbers are the same, and so is every comparison of them. -/

namespace Sys2Proof.Machine

open Config (NanQuieting)

/-! ### The loop of R51 -/

theorem msbIndex_bounds {m : Nat} (hm : m ≠ 0) : 2 ^ msbIndex m ≤ m ∧ m < 2 ^ (msbIndex m + 1) :=
  ⟨Nat.log2_self_le hm, Nat.lt_log2_self⟩

/-- The leading bit of a shifted value. -/
theorem shifted_bounds {m n : Nat} (hm : m ≠ 0) (hn : msbIndex m ≤ n) :
    2 ^ n ≤ m * 2 ^ (n - msbIndex m) ∧ m * 2 ^ (n - msbIndex m) < 2 ^ (n + 1) := by
  obtain ⟨hle, hlt⟩ := msbIndex_bounds hm
  have hlow : 2 ^ n = 2 ^ msbIndex m * 2 ^ (n - msbIndex m) := by rw [← Nat.pow_add, Nat.add_sub_cancel' hn]
  have hhigh : 2 ^ (n + 1) = 2 ^ (msbIndex m + 1) * 2 ^ (n - msbIndex m) := by
    rw [← Nat.pow_add]
    exact congrArg _ (by omega)
  rw [hlow, hhigh]
  exact ⟨Nat.mul_le_mul_right _ hle, Nat.mul_lt_mul_of_pos_right hlt (Nat.two_pow_pos _)⟩

/-- A value with its leading bit at `n` is that bit and the bits below. -/
theorem two_pow_add_lowBits {v n : Nat} (hle : 2 ^ n ≤ v) (hlt : v < 2 ^ (n + 1)) : 2 ^ n + lowBits v n = v := by
  have hlow : v % 2 ^ n = v - 2 ^ n := by
    rw [Nat.mod_eq_sub_mod hle, Nat.mod_eq_of_lt (by rw [Nat.pow_succ] at hlt; omega)]
  rw [lowBits, hlow, Nat.add_sub_cancel' hle]

theorem bit_of_leading {v n : Nat} (hle : 2 ^ n ≤ v) (hlt : v < 2 ^ (n + 1)) : bit v n = true := by
  rw [bit_eq_testBit, ← two_pow_add_lowBits hle hlt, Nat.testBit_two_pow_add_eq, lowBits,
    Nat.testBit_lt_two_pow (Nat.mod_lt v (Nat.two_pow_pos n))]
  rfl

/-! ### Reading the fields of a pattern -/

/-- The formats wider than binary16 on both paths, whose numbers are whole numbers of `2^-1074`. -/
structure FloatFormat.IsWider (f : FloatFormat) : Prop where
  widens  : f.CanWidenTo
  narrows : f.CanNarrowFrom
  step    : f.bias + f.mw ≤ 1075

theorem isWider_binary32 : binary32.IsWider := ⟨canWidenTo_binary32, canNarrowFrom_binary32, by decide⟩

theorem isWider_binary64 : binary64.IsWider := ⟨canWidenTo_binary64, canNarrowFrom_binary64, by decide⟩

namespace FloatFormat

/-- The least subnormal of binary16 as a number of least subnormals of a wider format. -/
def stepRatio (f : FloatFormat) : Nat := 2 ^ (f.bias + f.mw - 25)

theorem stepRatio_mul_unitsPerStep {f : FloatFormat} (hf : f.IsWider) :
    f.stepRatio * f.unitsPerStep = binary16.unitsPerStep := by
  have hstep := hf.step
  have hleast := hf.narrows.least
  have hbias : binary16.bias = 15 := rfl
  have hmw : binary16.mw = 10 := rfl
  have hexp : f.bias + f.mw - 25 + (1075 - f.bias - f.mw) = 1075 - binary16.bias - binary16.mw := by omega
  rw [stepRatio, unitsPerStep, unitsPerStep, ← Nat.pow_add, hexp]

variable {f : FloatFormat} {s e m : Nat}

theorem mantissa_pattern (hf : f.CanNarrowFrom) (hm : m < 2 ^ f.mw) : f.mantissa (f.pattern s e m) = m := by
  rw [mantissa_eq_mod hf, pattern, concat_mod _ hm]

theorem exponent_pattern (hf : f.CanNarrowFrom) (he : e < 2 ^ f.ew) (hm : m < 2 ^ f.mw) :
    f.exponent (f.pattern s e m) = e := by
  have hwidth : f.ew + f.mw - 1 + 1 - f.mw = f.ew := by
    have := hf.mw_pos
    omega
  rw [exponent, bits, hwidth, pattern, concat_div _ hm, concat_mod _ he]

theorem sign_pattern (hs : s < 2) (he : e < 2 ^ f.ew) (hm : m < 2 ^ f.mw) : f.sign (f.pattern s e m) = s := by
  have hwidth : f.ew + f.mw + 1 - (f.ew + f.mw) = 1 := by omega
  rw [sign, bits, hwidth, Nat.add_comm f.ew, Nat.pow_add, ← Nat.div_div_eq_div_mul, pattern, concat_div _ hm,
    concat_div _ he, Nat.pow_one, Nat.mod_eq_of_lt hs]

theorem pattern_lt (hs : s < 2) (he : e < 2 ^ f.ew) (hm : m < 2 ^ f.mw) : f.pattern s e m < 2 ^ (1 + f.ew + f.mw) :=
  concat_lt (concat_lt hs he) hm

theorem classOf_pattern (hf : f.CanNarrowFrom) (he : e < 2 ^ f.ew) (hm : m < 2 ^ f.mw) :
    f.classOf (f.pattern s e m) =
      if e = 0 then (if m = 0 then .zero else .subnormal)
      else if e = ones f.ew then (if m = 0 then .infinite else .nan)
      else .normal := by
  simp only [classOf, exponent_pattern hf he hm, mantissa_pattern hf hm]

theorem steps_pattern (hf : f.CanNarrowFrom) (he : e < 2 ^ f.ew) (hm : m < 2 ^ f.mw) :
    f.steps (f.pattern s e m) = if e = 0 then m else (2 ^ f.mw + m) * 2 ^ (e - 1) := by
  rw [steps, exponent_pattern hf he hm, mantissa_pattern hf hm]

end FloatFormat

/-! ### The fields of a widened pattern -/

theorem widenNanMantissa_lt {f : FloatFormat} (hf : f.CanWidenTo) (q : NanQuieting) (h : Half) :
    widenNanMantissa q f (binary16.mantissa h.toNat) < 2 ^ f.mw := by
  have hshift := mantissa16_shift_lt h hf.mantissa
  cases q with
  | preserve => exact hshift
  | libraryCompat =>
    exact Nat.or_lt_two_pow hshift (Nat.pow_lt_pow_right (by decide) (by have := hf.mantissa; omega))

/-- The shifted payload is not zero, and so the NaN stays a NaN. -/
theorem widenNanMantissa_ne_zero (q : NanQuieting) (f : FloatFormat) {m : Nat} (hm : m ≠ 0) : widenNanMantissa q f m ≠ 0 := by
  have hshift : m * 2 ^ (f.mw - 10) ≠ 0 := Nat.mul_ne_zero hm (Nat.two_pow_pos _).ne'
  cases q with
  | preserve => exact hshift
  | libraryCompat => exact fun hzero => hshift (Nat.or_eq_zero_iff.mp hzero).1

section Widened

variable {f : FloatFormat} (hf : f.IsWider) (q : NanQuieting) (h : Half)
include hf

/-- What R51 answers: the sign, and fields within their widths. -/
theorem exists_widen_eq_pattern :
    ∃ e m, widen q f h = f.pattern (binary16.sign h.toNat) e m ∧ e < 2 ^ f.ew ∧ m < 2 ^ f.mw := by
  have hwiden := hf.widens
  have hgreatest := hwiden.greatest
  have hleast := hf.narrows.least
  have hpos := Nat.two_pow_pos f.mw
  by_cases he : binary16.exponent h.toNat = 0
  · by_cases hm : binary16.mantissa h.toNat = 0
    · exact ⟨_, _, widen_zero q he hm, by omega, hpos⟩
    · have hlog := msbIndex_mantissa16_lt hm
      exact ⟨_, _, widen_subnormal q hwiden he hm, by omega, lowBits_lt ..⟩
  by_cases he' : binary16.exponent h.toNat ≤ 30
  · exact ⟨_, _, widen_normal q hwiden he he', by omega, mantissa16_shift_lt h hwiden.mantissa⟩
  · refine ⟨_, _, widen_special q (exponent16_eq_31 he'), ones_lt _, ?_⟩
    split_ifs
    · exact hpos
    · exact widenNanMantissa_lt hwiden q h

theorem widen_lt : widen q f h < 2 ^ (1 + f.ew + f.mw) := by
  obtain ⟨e, m, hpattern, he, hm⟩ := exists_widen_eq_pattern hf q h
  exact hpattern ▸ f.pattern_lt (binary16.sign_lt _) he hm

theorem sign_widen : f.sign (widen q f h) = binary16.sign h.toNat := by
  obtain ⟨e, m, hpattern, he, hm⟩ := exists_widen_eq_pattern hf q h
  rw [hpattern, f.sign_pattern (binary16.sign_lt _) he hm]

/-- The class stays, but a widened subnormal is a normal. -/
theorem classOf_widen : f.classOf (widen q f h) = if class16 h = .subnormal then .normal else class16 h := by
  have hwiden := hf.widens
  have hnarrow := hf.narrows
  have hgreatest := hnarrow.greatest
  have hleast := hnarrow.least
  have hones := ones_lt f.ew
  have hones16 : ones binary16.ew = 31 := rfl
  have hpos := Nat.two_pow_pos f.mw
  rw [class16_eq_classOf]
  by_cases he : binary16.exponent h.toNat = 0
  · by_cases hm : binary16.mantissa h.toNat = 0
    · rw [widen_zero q he hm, FloatFormat.classOf_pattern hnarrow (by omega) hpos]
      simp [FloatFormat.classOf, he, hm]
    · have hlog := msbIndex_mantissa16_lt hm
      rw [widen_subnormal q hwiden he hm, FloatFormat.classOf_pattern hnarrow (by omega) (lowBits_lt ..), if_neg (by omega),
        if_neg (by omega)]
      simp [FloatFormat.classOf, he, hm]
  by_cases he' : binary16.exponent h.toNat ≤ 30
  · have hspecial : binary16.exponent h.toNat ≠ 31 := by omega
    rw [widen_normal q hwiden he he', FloatFormat.classOf_pattern hnarrow (by omega) (mantissa16_shift_lt h hwiden.mantissa),
      if_neg (by omega), if_neg (by omega)]
    simp [FloatFormat.classOf, hones16, he, hspecial]
  have hspecial := exponent16_eq_31 he'
  have hnonzero : ones f.ew ≠ 0 := by omega
  by_cases hm : binary16.mantissa h.toNat = 0
  · rw [widen_infinity q hspecial hm, FloatFormat.classOf_pattern hnarrow hones hpos]
    simp [FloatFormat.classOf, hones16, hspecial, hm, hnonzero]
  · rw [widen_nan q hspecial hm, FloatFormat.classOf_pattern hnarrow hones (widenNanMantissa_lt hwiden q h)]
    simp [FloatFormat.classOf, hones16, hspecial, hm, hnonzero, widenNanMantissa_ne_zero]

/-- A finite number keeps its value, in the smaller steps of the wider format. -/
theorem steps_widen (hfin : binary16.exponent h.toNat ≤ 30) :
    f.steps (widen q f h) = binary16.steps h.toNat * f.stepRatio := by
  have hwiden := hf.widens
  have hnarrow := hf.narrows
  have hmw := hwiden.mantissa
  have hgreatest := hwiden.greatest
  have hleast := hnarrow.least
  have hlead16 : binary16.mw = 10 := rfl
  by_cases he : binary16.exponent h.toNat = 0
  · by_cases hm : binary16.mantissa h.toNat = 0
    · rw [widen_zero q he hm, FloatFormat.steps_pattern hnarrow (by omega) (Nat.two_pow_pos _), FloatFormat.steps, he, hm]
      simp
    · have hlog := msbIndex_mantissa16_lt hm
      obtain ⟨hle, hlt⟩ := shifted_bounds hm (by omega : msbIndex (binary16.mantissa h.toNat) ≤ f.mw)
      have hexp : f.mw - msbIndex (binary16.mantissa h.toNat) + (msbIndex (binary16.mantissa h.toNat) + (f.bias - 24) - 1)
          = f.bias + f.mw - 25 := by omega
      rw [widen_subnormal q hwiden he hm, FloatFormat.steps_pattern hnarrow (by omega) (lowBits_lt ..), if_neg (by omega),
        two_pow_add_lowBits hle hlt, Nat.mul_assoc, ← Nat.pow_add, hexp, FloatFormat.steps, if_pos he, FloatFormat.stepRatio]
  · have hlead : 2 ^ f.mw = 2 ^ 10 * 2 ^ (f.mw - 10) := by rw [← Nat.pow_add, Nat.add_sub_cancel' hmw]
    have hexp : f.mw - 10 + (binary16.exponent h.toNat + (f.bias - 15) - 1)
        = binary16.exponent h.toNat - 1 + (f.bias + f.mw - 25) := by omega
    rw [widen_normal q hwiden he hfin, FloatFormat.steps_pattern hnarrow (by omega) (mantissa16_shift_lt h hmw),
      if_neg (by omega), hlead, ← Nat.add_mul, Nat.mul_assoc, ← Nat.pow_add, hexp, FloatFormat.steps, if_neg he,
      FloatFormat.stepRatio, hlead16, Nat.pow_add, Nat.mul_assoc]

end Widened

/-! ### The numbers of widened patterns -/

theorem units_widen {f : FloatFormat} (hf : f.IsWider) (q : NanQuieting) {h : Half}
    (hfin : binary16.exponent h.toNat ≤ 30) : f.units (widen q f h) = binary16.units h.toNat := by
  rw [f.units_eq, binary16.units_eq, sign_widen hf, steps_widen hf q h hfin, Nat.mul_assoc,
    FloatFormat.stepRatio_mul_unitsPerStep hf]

/-- R54: widening is exact. -/
theorem numberOf_widen {f : FloatFormat} (hf : f.IsWider) (q : NanQuieting) (h : Half) :
    f.numberOf (widen q f h) = binary16.numberOf h.toNat := by
  have he := exponent16_eq_magnitude h
  have hmag := (class16_eq_iff h _).mp rfl
  rw [FloatFormat.numberOf, FloatFormat.numberOf, classOf_widen hf, sign_widen hf, ← class16_eq_classOf]
  cases hclass : class16 h <;> simp only [hclass, FpClass.magnitudes, Finset.mem_Ico] at hmag
  case zero | subnormal | normal => simp [units_widen hf q (h := h) (by omega)]
  case infinite | nan => simp

theorem toNat_h2fUnder (q : NanQuieting) (h : Half) : (h2fUnder q h).toNat = widen q binary32 h :=
  (BitVec.toNat_ofNat ..).trans (Nat.mod_eq_of_lt (widen_lt isWider_binary32 q h))

theorem toNat_h2dUnder (q : NanQuieting) (h : Half) : (h2dUnder q h).toNat = widen q binary64 h :=
  (BitVec.toNat_ofNat ..).trans (Nat.mod_eq_of_lt (widen_lt isWider_binary64 q h))

theorem numberOf_h2f (h : Half) : binary32.numberOf (fp16ToFp32Converter h).toNat = binary16.numberOf h.toNat :=
  (congrArg _ (toNat_h2fUnder ..)).trans (numberOf_widen isWider_binary32 _ h)

theorem numberOf_h2d (h : Half) : binary64.numberOf (fp16ToFp64Converter h).toNat = binary16.numberOf h.toNat :=
  (congrArg _ (toNat_h2dUnder ..)).trans (numberOf_widen isWider_binary64 _ h)

theorem classOf_h2f (h : Half) :
    binary32.classOf (fp16ToFp32Converter h).toNat = if class16 h = .subnormal then .normal else class16 h :=
  (congrArg _ (toNat_h2fUnder ..)).trans (classOf_widen isWider_binary32 _ h)

theorem classOf_h2d (h : Half) :
    binary64.classOf (fp16ToFp64Converter h).toNat = if class16 h = .subnormal then .normal else class16 h :=
  (congrArg _ (toNat_h2dUnder ..)).trans (classOf_widen isWider_binary64 _ h)

/-! ### The statements -/

/-- Settles O33: the loop shifts the leading bit to bit 10, and the bits below it are those of the closed form. -/
theorem normalisationLoopHasItsClosedForm : Obligations.NormalisationLoopHasItsClosedForm := by
  intro m hpos hlt p
  have hm : m ≠ 0 := hpos.ne'
  have hlog : msbIndex m < 10 := (Nat.log2_lt hm).mpr hlt
  obtain ⟨hle, hhigh⟩ := shifted_bounds hm hlog.le
  rw [normalise_eq 0 hm hlog.le (by omega)]
  refine ⟨Nat.zero_add _, by omega, by omega, bit_of_leading hle hhigh, hhigh, ?_, ?_⟩
  · exact normalised_mantissa hlog.le (mw := 23) (by decide)
  · exact normalised_mantissa hlog.le (mw := 52) (by decide)

/-- Settles O34: the widened class is the class, and normal for a subnormal. -/
theorem widenedNumbersAreNormal : Obligations.WidenedNumbersAreNormal := by
  intro h hclass
  rw [classOf_h2f, classOf_h2d]
  obtain hclass | hclass := hclass <;> simp [hclass]

/-- Settles O47: the widened patterns have the numbers of the binary16 patterns, which the units compare. -/
theorem comparisonsAgreeWithTheWidenedValues : Obligations.ComparisonsAgreeWithTheWidenedValues := fun a b =>
  ⟨comparesAs_congr (numberOf_h2f a) (numberOf_h2f b) (comparesAs_binary16 a b),
    comparesAs_congr (numberOf_h2d a) (numberOf_h2d b) (comparesAs_binary16 a b)⟩

end Sys2Proof.Machine

/-! # Narrowing is nearest (spec/42_narrow.md R56, R58, R61, R62; spec/93_implementation_defined.md U2)

The magnitudes of binary16 up to infinity stand for a strictly growing row of values, `grid16`, which in each binade has equal
steps. Rounding (R58) is nearest in a row of equal steps (`roundNearestEven_near`), hence nearest in the whole row
(`nearestMagnitude_of_binade`). So each case of R56 answers the sign above a nearest magnitude
(`exists_nearestMagnitude_narrow`), and the bounds and thresholds of R61 follow from that alone. -/

namespace Sys2Proof.Machine

open Config (NanQuieting)

/-! ### Rounding (R58) -/

/-- The rounded value is at most half a step away, and even where it is just half a step away. -/
theorem roundNearestEven_near (v k : Nat) :
    roundNearestEven v (k + 1) * 2 ^ (k + 1) ≤ v + 2 ^ k ∧ v ≤ roundNearestEven v (k + 1) * 2 ^ (k + 1) + 2 ^ k ∧
    (roundNearestEven v (k + 1) * 2 ^ (k + 1) = v + 2 ^ k ∨ v = roundNearestEven v (k + 1) * 2 ^ (k + 1) + 2 ^ k →
      roundNearestEven v (k + 1) % 2 = 0) := by
  have hkeep : v >>> (k + 1) = v / 2 ^ k / 2 := by
    rw [Nat.shiftRight_eq_div_pow, Nat.pow_succ, Nat.div_div_eq_div_mul]
  have hlow : v % 2 ^ k < 2 ^ k := Nat.mod_lt v (Nat.two_pow_pos k)
  have hparts : 2 * (v / 2 ^ k / 2 * 2 ^ k) + v / 2 ^ k % 2 * 2 ^ k + v % 2 ^ k = v := by
    rw [← Nat.mul_assoc, ← Nat.add_mul, Nat.div_add_mod, Nat.div_add_mod']
  rw [roundNearestEven_eq_increment, Nat.add_sub_cancel, hkeep, Nat.testBit_eq_decide_div_mod_eq, Rule.increment, Nat.pow_succ]
  have hround : v / 2 ^ k % 2 = 0 ∨ v / 2 ^ k % 2 = 1 := Nat.mod_two_eq_zero_or_one _
  split_ifs with hinc
  · obtain ⟨hrb, hst⟩ := hinc
    rw [of_decide_eq_true hrb, Nat.one_mul] at hparts
    rw [Nat.add_mul, Nat.one_mul, ← Nat.mul_assoc]
    omega
  · rw [decide_eq_true_iff] at hinc
    rw [Nat.add_zero, ← Nat.mul_assoc]
    obtain hrb | hrb := hround <;> rw [hrb] at hparts <;> omega

/-- The same in units: where a last place is `u` units, the rounded value is at most half of a retained place away. -/
theorem roundNearestEven_near_units (v k : Nat) {u : Nat} (hu : 0 < u) :
    2 * (roundNearestEven v (k + 1) * (2 ^ (k + 1) * u)) ≤ 2 * (v * u) + 2 ^ (k + 1) * u ∧
    2 * (v * u) ≤ 2 * (roundNearestEven v (k + 1) * (2 ^ (k + 1) * u)) + 2 ^ (k + 1) * u ∧
    (2 * (roundNearestEven v (k + 1) * (2 ^ (k + 1) * u)) = 2 * (v * u) + 2 ^ (k + 1) * u ∨
      2 * (v * u) = 2 * (roundNearestEven v (k + 1) * (2 ^ (k + 1) * u)) + 2 ^ (k + 1) * u →
      roundNearestEven v (k + 1) % 2 = 0) := by
  obtain ⟨hlow, hhigh, htie⟩ := roundNearestEven_near v k
  have hhalf : 2 ^ (k + 1) * u = 2 * (2 ^ k * u) := by rw [Nat.pow_succ, Nat.mul_comm (2 ^ k), Nat.mul_assoc]
  have hlow' := Nat.mul_le_mul_right u hlow
  have hhigh' := Nat.mul_le_mul_right u hhigh
  rw [← Nat.mul_right_cancel_iff hu, ← Nat.mul_right_cancel_iff (n := v) hu] at htie
  rw [Nat.add_mul, Nat.mul_assoc] at hlow' hhigh' htie
  rw [Nat.add_mul, Nat.mul_assoc] at htie
  exact ⟨by omega, by omega, fun heq => htie (by omega)⟩

/-- A set rounding bit with anything set below it rounds up. -/
theorem roundNearestEven_up {v sh : Nat} (hrb : v.testBit (sh - 1) = true) (hst : v % 2 ^ (sh - 1) ≠ 0) :
    roundNearestEven v sh = v / 2 ^ sh + 1 := by
  rw [roundNearestEven_eq_increment, Rule.increment, if_pos ⟨hrb, .inl hst⟩, Nat.shiftRight_eq_div_pow]

/-! ### The row of magnitudes -/

/-- The value of a magnitude in units, infinity as the value next above the largest finite one (log entry 9). -/
def grid16 (n : Nat) : Nat := steps16 n * binary16.unitsPerStep

theorem grid16_strictMono : StrictMono grid16 := fun _ _ h =>
  Nat.mul_lt_mul_of_pos_right (steps16_strictMono h) binary16.unitsPerStep_pos

@[simp] theorem grid16_zero : grid16 0 = 0 := by rw [grid16, steps16_zero, Nat.zero_mul]

/-- Of the magnitudes up to infinity, `N` is nearest to `A`, and even where it is halfway to another: `A` is on `N`'s side of the
middle between `N` and each other magnitude. -/
structure NearestMagnitude (A N : Nat) : Prop where
  le    : N ≤ 0x7C00
  below : ∀ n < N, grid16 n + grid16 N ≤ 2 * A ∧ (grid16 n + grid16 N = 2 * A → N % 2 = 0)
  above : ∀ n, N < n → n ≤ 0x7C00 → 2 * A ≤ grid16 N + grid16 n ∧ (2 * A = grid16 N + grid16 n → N % 2 = 0)

/-- It is enough to look at the neighbours. -/
theorem nearestMagnitude_of_neighbours {A N : Nat} (hle : N ≤ 0x7C00)
    (hbelow : ∀ n, N = n + 1 → grid16 n + grid16 N ≤ 2 * A ∧ (grid16 n + grid16 N = 2 * A → N % 2 = 0))
    (habove : N < 0x7C00 → 2 * A ≤ grid16 N + grid16 (N + 1) ∧ (2 * A = grid16 N + grid16 (N + 1) → N % 2 = 0)) :
    NearestMagnitude A N := by
  refine ⟨hle, fun n hn => ?_, fun n hn hnle => ?_⟩
  · obtain ⟨hnear, heven⟩ := hbelow (N - 1) (by omega)
    have hmono : grid16 n ≤ grid16 (N - 1) := grid16_strictMono.monotone (by omega)
    exact ⟨by omega, fun heq => heven (by omega)⟩
  · obtain ⟨hnear, heven⟩ := habove (by omega)
    have hmono : grid16 (N + 1) ≤ grid16 n := grid16_strictMono.monotone hn
    exact ⟨by omega, fun heq => heven (by omega)⟩

/-- Rounding within a binade, the 1024 equal steps from an even magnitude `b` on, is nearest in the whole row. -/
theorem nearestMagnitude_of_binade {b v k u : Nat} (hu : 0 < u) (hb : b % 2 = 0) (hbound : b + 1024 ≤ 0x7C00)
    (hgrid : ∀ j ≤ 1024, grid16 (b + j) = grid16 b + j * (2 ^ (k + 1) * u)) (hv : v < 2 ^ (k + 1 + 10)) :
    NearestMagnitude (grid16 b + v * u) (b + roundNearestEven v (k + 1)) := by
  have hle : roundNearestEven v (k + 1) ≤ 1024 := roundNearestEven_le hv
  have hend := hgrid 1024 le_rfl
  have hvend : v * u < 1024 * (2 ^ (k + 1) * u) := by
    rw [← Nat.mul_assoc, Nat.mul_comm 1024]
    exact Nat.mul_lt_mul_of_pos_right (by rwa [Nat.pow_add 2 (k + 1)] at hv) hu
  obtain ⟨hlow, hhigh, htie⟩ := roundNearestEven_near_units v k hu
  generalize roundNearestEven v (k + 1) = q at *
  generalize 2 ^ (k + 1) * u = d at *
  refine nearestMagnitude_of_neighbours (by omega) (fun n hn => ?_) (fun hlt => ?_)
  · obtain rfl | ⟨j, rfl⟩ : q = 0 ∨ ∃ j, q = j + 1 := by
      cases q
      · exact .inl rfl
      · exact .inr ⟨_, rfl⟩
    · have hmono : grid16 n < grid16 b := grid16_strictMono (by omega)
      rw [Nat.add_zero]
      omega
    · obtain rfl : n = b + j := by omega
      have hn := hgrid j (by omega)
      have hN := hgrid (j + 1) hle
      rw [Nat.add_mul] at hN hlow hhigh htie
      omega
  · obtain rfl | hq := Nat.eq_or_lt_of_le hle
    · have hmono : grid16 (b + 1024) < grid16 (b + 1024 + 1) := grid16_strictMono (Nat.lt_succ_self _)
      omega
    · have hN := hgrid q hle
      have hnext := hgrid (q + 1) hq
      rw [Nat.add_mul] at hnext
      rw [Nat.add_assoc]
      omega

/-! ### What a nearest magnitude is, to the statements -/

theorem NearestMagnitude.eq_of_exact {n N : Nat} (h : NearestMagnitude (grid16 n) N) (hn : n ≤ 0x7C00) : N = n := by
  obtain hlt | heq | hgt := Nat.lt_trichotomy N n
  · have hmono := grid16_strictMono hlt
    have := (h.above n hlt hn).1
    omega
  · exact heq
  · have hmono := grid16_strictMono hgt
    have := (h.below n hgt).1
    omega

/-- From the middle between the largest finite value and infinity on, the nearest is infinity. -/
theorem NearestMagnitude.eq_infinity {A N : Nat} (h : NearestMagnitude A N) (hA : grid16 0x7BFF + grid16 0x7C00 ≤ 2 * A) :
    N = 0x7C00 := by
  by_contra hne
  have hlt : N < 0x7C00 := lt_of_le_of_ne h.le hne
  obtain ⟨hnear, heven⟩ := h.above 0x7C00 hlt le_rfl
  obtain hbelow | rfl : N < 0x7BFF ∨ N = 0x7BFF := by omega
  · have hmono := grid16_strictMono hbelow
    omega
  · exact absurd (heven (by omega)) (by decide)

/-- Up to the middle between zero and the least subnormal the nearest is zero. -/
theorem NearestMagnitude.eq_zero {A N : Nat} (h : NearestMagnitude A N) (hA : 2 * A ≤ grid16 1) : N = 0 := by
  by_contra hne
  obtain ⟨hnear, heven⟩ := h.below 0 (Nat.pos_of_ne_zero hne)
  rw [grid16_zero, Nat.zero_add] at hnear heven
  obtain habove | rfl : 1 < N ∨ N = 1 := by omega
  · have hmono := grid16_strictMono habove
    omega
  · exact absurd (heven (by omega)) (by decide)

theorem units16_eq_grid16 (h : Half) : binary16.units h.toNat = signed (binary16.sign h.toNat) (grid16 (magnitude16 h)) :=
  units16_eq h

theorem lsb_eq_false_of_even {h : Half} (heven : magnitude16 h % 2 = 0) : h.getLsbD 0 = false := by
  rw [magnitude16_eq] at heven
  have hbit : h.getLsbD 0 = h.toNat.testBit 0 := rfl
  rw [hbit, Nat.testBit_zero, decide_eq_false_iff_not]
  omega

theorem signed_natAbs (s n : Nat) : (signed s n).natAbs = n := by
  rw [signed_eq_ite]
  split_ifs <;> simp

/-- The sign of the value above a nearest magnitude is nearest among all patterns: those of the other sign are no nearer than
zero is. -/
theorem nearest_of_nearestMagnitude {s A : Nat} {r : Half} (hs : binary16.sign r.toNat = s)
    (h : NearestMagnitude A (magnitude16 r)) : Rule.Nearest (signed s A) r := by
  refine ⟨(isNaN16_eq_false_iff r).mpr h.le, fun c hc => ?_⟩
  have hcle := (isNaN16_eq_false_iff c).mp hc
  have hbelow := h.below (magnitude16 c)
  have habove := h.above (magnitude16 c)
  have hzero := h.below 0
  have hmono : magnitude16 r < magnitude16 c → grid16 (magnitude16 r) < grid16 (magnitude16 c) := (grid16_strictMono ·)
  have hmono' : magnitude16 c < magnitude16 r → grid16 (magnitude16 c) < grid16 (magnitude16 r) := (grid16_strictMono ·)
  have hsame : magnitude16 c = magnitude16 r → grid16 (magnitude16 c) = grid16 (magnitude16 r) := congrArg grid16
  have hzero' : magnitude16 r = 0 → grid16 (magnitude16 r) = 0 := fun hr => by rw [hr, grid16_zero]
  rw [grid16_zero] at hzero
  rw [units16_eq_grid16, units16_eq_grid16, hs]
  refine ⟨?_, fun heq hdiffer => lsb_eq_false_of_even ?_⟩
  · simp only [signed_eq_ite]
    split_ifs <;> omega
  · simp only [signed_eq_ite] at heq hdiffer
    split_ifs at heq hdiffer <;> omega

/-! ### The cases of R56 answer a nearest magnitude -/

/-- The magnitude of a normal in units: its integer mantissa times the units of its last place. -/
theorem normalUnits_eq {f : FloatFormat} {x : Nat} (he : f.exponent x ≠ 0) :
    f.steps x * f.unitsPerStep = (2 ^ f.mw + f.mantissa x) * (2 ^ (f.exponent x - 1) * f.unitsPerStep) := by
  rw [FloatFormat.steps, if_neg he, Nat.mul_assoc]

/-- The steps of a binade of binary16 as shifted last places of the source. -/
theorem shiftedUnits_eq {f : FloatFormat} {x sh i : Nat} (hsh : sh + (f.exponent x - 1) = i + (f.bias + f.mw - 25)) :
    2 ^ sh * (2 ^ (f.exponent x - 1) * f.unitsPerStep) = 2 ^ i * f.stepRatio * f.unitsPerStep := by
  rw [FloatFormat.stepRatio, ← Nat.mul_assoc, ← Nat.pow_add, ← Nat.pow_add, hsh]

section Cases

variable {f : FloatFormat} (hf : f.IsWider) {x : Nat}
include hf

theorem grid16_eq_stepRatio (n : Nat) : grid16 n = steps16 n * f.stepRatio * f.unitsPerStep := by
  rw [grid16, ← FloatFormat.stepRatio_mul_unitsPerStep hf, Nat.mul_assoc]

theorem nearestMagnitude_overflow (he : f.bias + 16 ≤ f.exponent x) :
    NearestMagnitude (f.steps x * f.unitsPerStep) 0x7C00 := by
  have hinf : grid16 0x7C00 ≤ f.steps x * f.unitsPerStep := by
    have hleast := hf.narrows.least
    have hlast : steps16 0x7C00 = 2 ^ 40 := rfl
    rw [grid16_eq_stepRatio hf, hlast, FloatFormat.stepRatio, ← Nat.pow_add, FloatFormat.steps, if_neg (by omega)]
    refine Nat.mul_le_mul_right _ ?_
    calc 2 ^ (40 + (f.bias + f.mw - 25))
      _ ≤ 2 ^ (f.mw + (f.exponent x - 1)) := Nat.pow_le_pow_right (by decide) (by omega)
      _ = 2 ^ f.mw * 2 ^ (f.exponent x - 1) := Nat.pow_add ..
      _ ≤ (2 ^ f.mw + f.mantissa x) * 2 ^ (f.exponent x - 1) := Nat.mul_le_mul_right _ (Nat.le_add_right ..)
  refine ⟨le_rfl, fun n hn => ?_, fun n hn hnle => absurd hnle (Nat.not_le.mpr hn)⟩
  have hmono := grid16_strictMono hn
  omega

/-- Below exponent `bias - 25` the source is below half of the least subnormal of binary16. -/
theorem steps_lt_of_underflow (he : f.exponent x < f.bias - 25) : 2 * f.steps x < f.stepRatio := by
  have hleast := hf.narrows.least
  have hm := f.mantissa_lt x hf.narrows.mw_pos
  have hratio : f.stepRatio = 2 ^ (f.bias - 25) * 2 ^ f.mw := by
    rw [FloatFormat.stepRatio, ← Nat.pow_add, Nat.sub_add_comm (by omega)]
  rw [hratio, FloatFormat.steps]
  split_ifs with hzero
  · have hwide : 2 ^ 1 ≤ 2 ^ (f.bias - 25) := Nat.pow_le_pow_right (by decide) (by omega)
    calc 2 * f.mantissa x
      _ < 2 * 2 ^ f.mw := by omega
      _ ≤ 2 ^ (f.bias - 25) * 2 ^ f.mw := Nat.mul_le_mul_right _ hwide
  · have hwide : 2 ^ (f.exponent x - 1 + 2) ≤ 2 ^ (f.bias - 25) := Nat.pow_le_pow_right (by decide) (by omega)
    calc 2 * ((2 ^ f.mw + f.mantissa x) * 2 ^ (f.exponent x - 1))
      _ < 2 * (2 * 2 ^ f.mw * 2 ^ (f.exponent x - 1)) :=
        Nat.mul_lt_mul_of_pos_left (Nat.mul_lt_mul_of_pos_right (by omega) (Nat.two_pow_pos _)) (by decide)
      _ = 2 ^ (f.exponent x - 1 + 2) * 2 ^ f.mw := by ring
      _ ≤ 2 ^ (f.bias - 25) * 2 ^ f.mw := Nat.mul_le_mul_right _ hwide

theorem nearestMagnitude_underflow (he : f.exponent x < f.bias - 25) :
    NearestMagnitude (f.steps x * f.unitsPerStep) 0 := by
  have hsmall : 2 * (f.steps x * f.unitsPerStep) < grid16 1 := by
    have hsteps := steps_lt_of_underflow hf he
    have hone : steps16 1 = 1 := rfl
    rw [grid16_eq_stepRatio hf, hone, Nat.one_mul, ← Nat.mul_assoc]
    exact Nat.mul_lt_mul_of_pos_right hsteps f.unitsPerStep_pos
  refine nearestMagnitude_of_neighbours (Nat.zero_le _) (fun n hn => nomatch hn) fun _ => ?_
  rw [grid16_zero, Nat.zero_add, Nat.zero_add]
  exact ⟨hsmall.le, fun heq => absurd heq hsmall.ne⟩

theorem nearestMagnitude_subnormal (he : f.bias - 25 ≤ f.exponent x) (he' : f.exponent x < f.bias - 14) :
    NearestMagnitude (f.steps x * f.unitsPerStep)
      (roundNearestEven (2 ^ f.mw + f.mantissa x) (f.bias + f.mw - 24 - f.exponent x)) := by
  have hleast := hf.narrows.least
  have hmw := hf.narrows.mantissa
  have hm := f.mantissa_lt x hf.narrows.mw_pos
  have hsh : f.bias + f.mw - 24 - f.exponent x = f.bias + f.mw - 25 - f.exponent x + 1 := by omega
  have hwide : 2 ^ (f.mw + 1) ≤ 2 ^ (f.bias + f.mw - 25 - f.exponent x + 1 + 10) :=
    Nat.pow_le_pow_right (by decide) (by omega)
  have hstep := shiftedUnits_eq (f := f) (x := x) (sh := f.bias + f.mw - 25 - f.exponent x + 1) (i := 0) (by omega)
  have hnear := nearestMagnitude_of_binade (b := 0) (v := 2 ^ f.mw + f.mantissa x) (k := f.bias + f.mw - 25 - f.exponent x)
    (u := 2 ^ (f.exponent x - 1) * f.unitsPerStep) (Nat.mul_pos (Nat.two_pow_pos _) f.unitsPerStep_pos) rfl (by decide)
    (fun j hj => ?_) (by rw [Nat.pow_succ] at hwide; omega)
  · rwa [grid16_zero, Nat.zero_add, Nat.zero_add, ← hsh, ← normalUnits_eq (by omega)] at hnear
  · rw [grid16_zero, Nat.zero_add, Nat.zero_add, hstep, grid16_eq_stepRatio hf, steps16_subnormal hj, Nat.pow_zero, Nat.one_mul,
      Nat.mul_assoc]

theorem nearestMagnitude_normal (he : f.bias - 14 ≤ f.exponent x) (he' : f.exponent x < f.bias + 16) :
    NearestMagnitude (f.steps x * f.unitsPerStep)
      ((f.exponent x - (f.bias - 15)) * 2 ^ 10 + roundNearestEven (f.mantissa x) (f.mw - 10)) := by
  have hleast := hf.narrows.least
  have hmw := hf.narrows.mantissa
  have hm := f.mantissa_lt x hf.narrows.mw_pos
  have hsh : f.mw - 10 = f.mw - 11 + 1 := by omega
  have hwidth : f.mw = f.mw - 11 + 1 + 10 := by omega
  have hstep := shiftedUnits_eq (f := f) (x := x) (sh := f.mw - 11 + 1) (i := f.exponent x - (f.bias - 15) - 1) (by omega)
  have hgrid : ∀ j ≤ 1024, grid16 ((f.exponent x - (f.bias - 15)) * 1024 + j) =
      (1024 + j) * (2 ^ (f.mw - 11 + 1) * (2 ^ (f.exponent x - 1) * f.unitsPerStep)) := by
    intro j hj
    rw [grid16_eq_stepRatio hf, steps16_normal (by omega) hj, hstep, Nat.mul_assoc, Nat.mul_assoc, Nat.mul_assoc]
  have hnear := nearestMagnitude_of_binade (b := (f.exponent x - (f.bias - 15)) * 1024) (v := f.mantissa x) (k := f.mw - 11)
    (u := 2 ^ (f.exponent x - 1) * f.unitsPerStep) (Nat.mul_pos (Nat.two_pow_pos _) f.unitsPerStep_pos) (by omega) (by omega)
    (fun j hj => ?_) (hwidth ▸ hm)
  · have hbase := hgrid 0 (by decide)
    have hlead : 1024 * 2 ^ (f.mw - 11 + 1) = 2 ^ f.mw := by rw [hwidth, Nat.pow_add _ _ 10]; exact Nat.mul_comm ..
    rw [Nat.add_zero, Nat.add_zero, ← Nat.mul_assoc, hlead] at hbase
    rwa [hbase, ← Nat.add_mul, ← normalUnits_eq (by omega), ← hsh] at hnear
  · have hbase := hgrid 0 (by decide)
    rw [Nat.add_zero, Nat.add_zero] at hbase
    rw [hgrid j hj, hbase, Nat.add_mul]

/-- R61: a source that is not a NaN narrows to its sign above a nearest magnitude. -/
theorem exists_nearestMagnitude_narrow (hnan : f.classOf x ≠ .nan) (q : NanQuieting) (fill : BitVec 10) :
    ∃ N, narrow q fill f x = concat (f.sign x) N 15 ∧ NearestMagnitude (f.steps x * f.unitsPerStep) N := by
  have hnarrow := hf.narrows
  have hgreatest := hnarrow.greatest
  by_cases hspecial : f.exponent x = ones f.ew
  · have hm : f.mantissa x = 0 := by
      by_contra hm
      exact hnan ((FloatFormat.classOf_eq_nan_iff hnarrow x).mpr ⟨hspecial, hm⟩)
    exact ⟨_, narrow_infinity q fill hspecial hm, nearestMagnitude_overflow hf (by omega)⟩
  by_cases hover : f.bias + 16 ≤ f.exponent x
  · exact ⟨_, narrow_overflow q fill hspecial hover, nearestMagnitude_overflow hf hover⟩
  by_cases hnormal : f.bias - 14 ≤ f.exponent x
  · exact ⟨_, narrow_normal q fill hnarrow hnormal (by omega), nearestMagnitude_normal hf hnormal (by omega)⟩
  by_cases hsub : f.bias - 25 ≤ f.exponent x
  · exact ⟨_, narrow_subnormal q fill hnarrow hsub (by omega), nearestMagnitude_subnormal hf hsub (by omega)⟩
  · exact ⟨_, narrow_underflow q fill hnarrow (by omega), nearestMagnitude_underflow hf (by omega)⟩

end Cases

/-! ### The sign and the magnitude of the answer -/

theorem magnitude16_row (s : BitVec 1) {N : Nat} (hN : N < 2 ^ 15) : magnitude16 (s ++ BitVec.ofNat 15 N) = N := by
  rw [magnitude16_eq, toNat_append_ofNat s hN, concat_mod _ hN]

theorem sign16_row (s : BitVec 1) (m : BitVec 15) : sign16 (s ++ m) = s.msb := by
  rw [sign16_eq_msb, BitVec.msb_append]
  rfl

theorem msb_signSlice {n : Nat} (x : BitVec (1 + n)) : (x.extractLsb' n 1).msb = x.msb := by
  rw [BitVec.msb_eq_getLsbD_last, BitVec.msb_eq_getLsbD_last, BitVec.getLsbD_extractLsb']
  simp

/-- R61 on the ports: the answer has the source's sign and a nearest magnitude. -/
theorem narrow_spec {f : FloatFormat} (hf : f.IsWider) {x : BitVec (1 + (f.ew + f.mw))} (hnan : f.classOf x.toNat ≠ .nan)
    (q : NanQuieting) (fill : BitVec 10) :
    let r := BitVec.ofNat 16 (narrow q fill f x.toNat)
    sign16 r = x.msb ∧ NearestMagnitude (f.steps x.toNat * f.unitsPerStep) (magnitude16 r) := by
  intro r
  obtain ⟨N, hrow, hnear⟩ := exists_nearestMagnitude_narrow hf hnan q fill
  have hlt : N < 2 ^ 15 := lt_of_le_of_lt hnear.le (by decide)
  have hr : r = x.extractLsb' (f.ew + f.mw) 1 ++ BitVec.ofNat 15 N := (congrArg _ hrow).trans (ofNat_concat_sign x hlt)
  rw [hr, sign16_row, msb_signSlice, magnitude16_row _ hlt]
  exact ⟨rfl, hnear⟩

/-- A pattern of a format has its sign bit on top. -/
theorem sign_eq_msb (f : FloatFormat) (x : BitVec (1 + (f.ew + f.mw))) : f.sign x.toNat = x.msb.toNat := by
  have hbit : ∀ s : BitVec 1, s.toNat = s.msb.toNat := by decide
  rw [← f.toNat_signSlice, hbit, msb_signSlice]

theorem sign16_toNat (h : Half) : binary16.sign h.toNat = (sign16 h).toNat := by
  rw [sign16_eq_msb]
  exact sign_eq_msb binary16 h

theorem two_pow_1074_eq : 2 ^ 1074 = 2 ^ 24 * binary16.unitsPerStep := by
  have hexp : 24 + (1075 - binary16.bias - binary16.mw) = 1074 := rfl
  rw [FloatFormat.unitsPerStep, ← Nat.pow_add, hexp]

theorem two_pow_1049_eq : 2 * 2 ^ 1049 = grid16 1 := by
  have hexp : Nat.succ 1049 = 1075 - binary16.bias - binary16.mw := rfl
  have hone : steps16 1 = 1 := rfl
  rw [grid16, hone, Nat.one_mul, FloatFormat.unitsPerStep, ← Nat.pow_succ', hexp]

/-- 65520 is the middle between 65504 and the value next above it. -/
theorem infinityThreshold_eq : 2 * (65520 * 2 ^ 1074) = grid16 0x7BFF + grid16 0x7C00 := by
  have hlargest : steps16 0x7BFF = 65504 * 2 ^ 24 := rfl
  have hnext : steps16 0x7C00 = 65536 * 2 ^ 24 := rfl
  rw [two_pow_1074_eq, grid16, grid16, hlargest, hnext]
  omega

/-- R61 in full, for any source format. -/
theorem narrow_nearest {f : FloatFormat} (hf : f.IsWider) {x : BitVec (1 + (f.ew + f.mw))} (hnan : f.classOf x.toNat ≠ .nan)
    (q : NanQuieting) (fill : BitVec 10) :
    let r := BitVec.ofNat 16 (narrow q fill f x.toNat)
    let v := f.units x.toNat
    Rule.Nearest v r ∧ sign16 r = x.msb ∧
    (65520 * 2 ^ 1074 ≤ v.natAbs → magnitude16 r = 0x7C00) ∧ (v.natAbs ≤ 2 ^ 1049 → magnitude16 r = 0) := by
  intro r v
  obtain ⟨hsign, hnear⟩ := narrow_spec hf hnan q fill
  have habs : v.natAbs = f.steps x.toNat * f.unitsPerStep := signed_natAbs ..
  have hs : binary16.sign r.toNat = f.sign x.toNat := by rw [sign16_toNat, hsign, sign_eq_msb]
  rw [habs]
  refine ⟨nearest_of_nearestMagnitude hs hnear, hsign, fun hbig => hnear.eq_infinity ?_, fun hsmall => hnear.eq_zero ?_⟩
  · rw [← infinityThreshold_eq]
    exact Nat.mul_le_mul_left 2 hbig
  · rw [← two_pow_1049_eq]
    exact Nat.mul_le_mul_left 2 hsmall

/-! ### The magnitude where rounding goes up (R62) -/

theorem magnitude16_ofNat_concat (f : FloatFormat) {w N : Nat} (x : BitVec w) (hN : N ≤ 0x7C00) :
    magnitude16 (BitVec.ofNat 16 (concat (f.sign x.toNat) N 15)) = N := by
  have hlt : N < 2 ^ 15 := lt_of_le_of_lt hN (by decide)
  rw [ofNat_concat_sign x hlt, magnitude16_row _ hlt]

section Up

variable {f : FloatFormat} (hf : f.IsWider) {w : Nat} {x : BitVec w} (q : NanQuieting) (fill : BitVec 10)
include hf

theorem magnitude16_narrow_normal_up (he : f.bias - 14 ≤ f.exponent x.toNat) (he' : f.exponent x.toNat < f.bias + 16)
    (hrb : (f.mantissa x.toNat).testBit (f.mw - 10 - 1) = true) (hst : f.mantissa x.toNat % 2 ^ (f.mw - 10 - 1) ≠ 0) :
    magnitude16 (BitVec.ofNat 16 (narrow q fill f x.toNat)) =
      (f.exponent x.toNat - (f.bias - 15)) * 2 ^ 10 + f.mantissa x.toNat / 2 ^ (f.mw - 10) + 1 := by
  have hle := (nearestMagnitude_normal hf he he').le
  rw [narrow_normal q fill hf.narrows he he', magnitude16_ofNat_concat f x hle, roundNearestEven_up hrb hst,
    Nat.add_assoc]

theorem magnitude16_narrow_subnormal_up {sh : Nat} (hsh : sh = f.bias + f.mw - 24 - f.exponent x.toNat)
    (he : f.bias - 25 ≤ f.exponent x.toNat) (he' : f.exponent x.toNat < f.bias - 14)
    (hrb : (2 ^ f.mw + f.mantissa x.toNat).testBit (sh - 1) = true)
    (hst : (2 ^ f.mw + f.mantissa x.toNat) % 2 ^ (sh - 1) ≠ 0) :
    magnitude16 (BitVec.ofNat 16 (narrow q fill f x.toNat)) = (2 ^ f.mw + f.mantissa x.toNat) / 2 ^ sh + 1 := by
  have hle := (nearestMagnitude_subnormal hf he he').le
  rw [narrow_subnormal q fill hf.narrows he he', magnitude16_ofNat_concat f x hle, ← hsh, roundNearestEven_up hrb hst]

end Up

/-! ### NaN sources -/

/-- A NaN source keeps its class and sign where the fill is not zero. -/
theorem narrow_keeps_nan {f : FloatFormat} (hf : f.IsWider) (q : NanQuieting) {fill : BitVec 10} (hfill : fill ≠ 0#10)
    {x : BitVec (1 + (f.ew + f.mw))} (hnan : f.classOf x.toNat = .nan) :
    isNaN16 (BitVec.ofNat 16 (narrow q fill f x.toNat)) = true ∧
      sign16 (BitVec.ofNat 16 (narrow q fill f x.toNat)) = x.msb := by
  obtain ⟨m, hm, hnonzero⟩ :
      ∃ m : BitVec 10, narrowNanMantissa q fill f (f.mantissa x.toNat) = m.toNat ∧ m ≠ 0#10 := by
    cases q with
    | preserve =>
      refine ⟨_, narrowNanMantissa_preserve hf.narrows fill x, ?_⟩
      split_ifs with htop
      · exact hfill
      · exact htop
    | libraryCompat =>
      refine ⟨_, narrowNanMantissa_libraryCompat hf.narrows fill x, fun hzero => ?_⟩
      exact absurd (BitVec.or_eq_zero_iff.mp hzero).1 (by decide)
  rw [ofNat_narrow_nan hf.narrows q fill hnan hm]
  refine ⟨isNaN16_specialRow _ hnonzero, ?_⟩
  rw [sign16_eq_msb, BitVec.msb_append, BitVec.msb_append]
  exact msb_signSlice x

/-! ### The statements -/

/-- Settles O31: each bound of `roundNearestEven_near` is one side of the distance. -/
theorem roundingIsNearestTiesToEven : Obligations.RoundingIsNearestTiesToEven := by
  intro v sh hsh
  obtain ⟨k, rfl⟩ := Nat.exists_eq_add_of_le' hsh
  obtain ⟨hlow, hhigh, htie⟩ := roundNearestEven_near v k
  have hcast : ((roundNearestEven v (k + 1) * 2 ^ (k + 1) : Nat) : Int) = roundNearestEven v (k + 1) * 2 ^ (k + 1) := by
    push_cast
    rfl
  have hhalf : 2 ^ (k + 1) = 2 * 2 ^ k := Nat.pow_succ'
  intro q
  rw [← hcast]
  exact ⟨by omega, fun heq => htie (by omega)⟩

/-- Settles O32: a nearest magnitude is at most that of infinity. -/
theorem roundingCarryStopsAtInfinity : Obligations.RoundingCarryStopsAtInfinity := by
  constructor
  · intro x hnan
    obtain ⟨hsign, hnear⟩ := narrow_spec isWider_binary32 (x := x) hnan Config.nanQuieting Config.narrowNanFill
    exact ⟨hnear.le, hsign⟩
  · intro x hnan
    obtain ⟨hsign, hnear⟩ := narrow_spec isWider_binary64 (x := x) hnan Config.nanQuieting Config.narrowNanFill
    exact ⟨hnear.le, hsign⟩

/-- Settles O38: both settings of the parameters give a mantissa that is not zero. -/
theorem everyNanParameterKeepsTheClassAndSign : Obligations.EveryNanParameterKeepsTheClassAndSign := fun q _ hfill =>
  ⟨fun _ hnan => narrow_keeps_nan isWider_binary32 q hfill hnan, fun _ hnan => narrow_keeps_nan isWider_binary64 q hfill hnan⟩

/-- Settles O40: the sign above a nearest magnitude is a nearest pattern, at both formats. -/
theorem narrowingIsNearestTiesToEven : Obligations.NarrowingIsNearestTiesToEven :=
  ⟨fun _ hnan => narrow_nearest isWider_binary32 hnan .., fun _ hnan => narrow_nearest isWider_binary64 hnan ..⟩

/-- Settles O41: a set rounding bit with anything set below it rounds up, in both ranges. -/
theorem d2hRoundsOnceOverEveryDiscardedBit : Obligations.D2hRoundsOnceOverEveryDiscardedBit := by
  intro x E F sh
  have hE : binary64.exponent x.toNat = E := (FloatFormat.toNat_exponentSlice canNarrowFrom_binary64 x).symm
  have hM : binary64.mantissa x.toNat = (x.extractLsb' 0 52).toNat :=
    (FloatFormat.toNat_mantissaSlice canNarrowFrom_binary64 x).symm
  constructor
  · intro he he' hrb hst
    have hmod : binary64.mantissa x.toNat = x.toNat % 2 ^ 52 := FloatFormat.mantissa_eq_mod canNarrowFrom_binary64 _
    have hround : (binary64.mantissa x.toNat).testBit 41 = true := by
      rw [hmod, Nat.testBit_mod_two_pow]
      exact hrb
    have hlow : binary64.mantissa x.toNat % 2 ^ 41 = (x.extractLsb' 0 41).toNat := by
      rw [hmod, Nat.mod_mod_of_dvd _ (Nat.pow_dvd_pow 2 (by decide)), BitVec.extractLsb'_toNat, Nat.shiftRight_zero]
    have hsticky : binary64.mantissa x.toNat % 2 ^ 41 ≠ 0 := fun hzero =>
      hst (BitVec.eq_of_toNat_eq (hlow.symm.trans hzero))
    have htop : (x.extractLsb' 42 10).toNat = binary64.mantissa x.toNat / 2 ^ 42 :=
      (FloatFormat.topMantissa_eq_slice canNarrowFrom_binary64 x).symm.trans
        ((FloatFormat.topMantissa_eq_shift canNarrowFrom_binary64 _).trans (Nat.shiftRight_eq_div_pow ..))
    rw [htop, ← hE]
    exact magnitude16_narrow_normal_up isWider_binary64 _ _ (hE ▸ he) (by rw [hE]; exact Nat.lt_succ_of_le he') hround hsticky
  · intro he he' hrb hst
    have hF : 2 ^ binary64.mw + binary64.mantissa x.toNat = F := congrArg _ hM
    have hup := magnitude16_narrow_subnormal_up isWider_binary64 (x := x) (sh := sh) Config.nanQuieting Config.narrowNanFill
      (by rw [hE]; rfl) (by rwa [hE]) (by rw [hE]; exact Nat.lt_succ_of_le he') (by rwa [hF]) (by rwa [hF])
    rwa [hF] at hup

end Sys2Proof.Machine

/-! # Round trips (spec/42_narrow.md R64; spec/41_widen.md R54)

Widening is exact, so the pattern one began with is the nearest one, and narrowing gives it back (`narrow_widen_of_number`). A NaN
comes back by its payload. Widening is injective since narrowing undoes it. -/

namespace Sys2Proof.Machine

open Config (NanQuieting)

/-! ### A pattern from its parts -/

theorem ofNat_sign_magnitude (h : Half) : BitVec.ofNat 16 (concat (binary16.sign h.toNat) (magnitude16 h) 15) = h := by
  have hparts : concat (binary16.sign h.toNat) (magnitude16 h) 15 = h.toNat := by
    rw [sign16_toNat, concat]
    exact (toNat_eq_sign_magnitude h).symm
  rw [hparts, BitVec.ofNat_toNat, BitVec.setWidth_eq]

theorem pattern16_eq_toNat (h : Half) :
    binary16.pattern (binary16.sign h.toNat) (binary16.exponent h.toNat) (binary16.mantissa h.toNat) = h.toNat := by
  have hpattern : ∀ s e m, binary16.pattern s e m = (s * 2 ^ 5 + e) * 2 ^ 10 + m := fun _ _ _ => rfl
  rw [hpattern, exponent16_eq_magnitude, mantissa16_eq_magnitude, sign16_toNat]
  have := toNat_eq_sign_magnitude h
  omega

/-- Setting bits of the lower part of a concatenation. -/
theorem concat_or_low {p q q' wq : Nat} (hq : q < 2 ^ wq) (hq' : q' < 2 ^ wq) :
    concat p q wq ||| q' = concat p (q ||| q') wq := by
  rw [concat, concat, Nat.mul_comm, Nat.two_pow_add_eq_or_of_lt hq, Nat.two_pow_add_eq_or_of_lt (Nat.or_lt_two_pow hq hq'),
    Nat.lor_assoc]

/-! ### NaN payloads -/

section Payload

variable {f : FloatFormat} (hf : f.IsWider) {m : Nat}
include hf

theorem topMantissa_shift (hm : m < 2 ^ 10) : bits (m * 2 ^ (f.mw - 10)) (f.mw - 1) (f.mw - 10) = m := by
  have hwidth : f.mw - 1 + 1 - (f.mw - 10) = 10 := by
    have := hf.narrows.mantissa
    omega
  rw [bits, hwidth, Nat.mul_div_cancel _ (Nat.two_pow_pos _), Nat.mod_eq_of_lt hm]

/-- The quiet bit is the top bit of the payload. -/
theorem widenNanMantissa_libraryCompat_eq :
    widenNanMantissa .libraryCompat f m = (0x200 ||| m) * 2 ^ (f.mw - 10) := by
  have hquiet : 2 ^ (f.mw - 1) = 0x200 * 2 ^ (f.mw - 10) := by
    rw [← Nat.pow_add 2 9]
    exact congrArg _ (by have := hf.narrows.mantissa; omega)
  rw [widenNanMantissa, hquiet, Nat.lor_comm, ← Nat.shiftLeft_eq, ← Nat.shiftLeft_eq, ← Nat.shiftLeft_or_distrib,
    Nat.shiftLeft_eq]

theorem narrowNanMantissa_widened_preserve (hm : m < 2 ^ 10) (fill : BitVec 10) (hzero : m ≠ 0) :
    narrowNanMantissa .preserve fill f (widenNanMantissa .preserve f m) = m := by
  rw [widenNanMantissa, narrowNanMantissa, topMantissa_shift hf hm, if_neg hzero]

theorem narrowNanMantissa_widened_libraryCompat (hm : m < 2 ^ 10) (fill : BitVec 10) :
    narrowNanMantissa .libraryCompat fill f (widenNanMantissa .libraryCompat f m) = 0x200 ||| m := by
  have hlt : 0x200 ||| m < 2 ^ 10 := Nat.or_lt_two_pow (by decide) hm
  rw [widenNanMantissa_libraryCompat_eq hf, narrowNanMantissa, topMantissa_shift hf hlt, ← Nat.lor_assoc]
  rfl

end Payload

/-! ### Widen, then narrow -/

section RoundTrip

variable {f : FloatFormat} (hf : f.IsWider) {h : Half}
include hf

theorem narrow_widen_of_number (hnan : isNaN16 h = false) (q q' : NanQuieting) (fill : BitVec 10) :
    BitVec.ofNat 16 (narrow q fill f (widen q' f h)) = h := by
  obtain ⟨hinf, hm⟩ | hfin : (binary16.exponent h.toNat = 31 ∧ binary16.mantissa h.toNat = 0) ∨
      binary16.exponent h.toNat ≤ 30 := by
    have hle := (isNaN16_eq_false_iff h).mp hnan
    rw [exponent16_eq_magnitude, mantissa16_eq_magnitude]
    omega
  · have hmag : magnitude16 h = 0x7C00 := by
      rw [exponent16_eq_magnitude] at hinf
      rw [mantissa16_eq_magnitude] at hm
      omega
    have hpos := Nat.two_pow_pos f.mw
    rw [narrow_infinity, sign_widen hf, ← hmag, ofNat_sign_magnitude]
    · rw [widen_infinity q' hinf hm, FloatFormat.exponent_pattern hf.narrows (ones_lt _) hpos]
    · rw [widen_infinity q' hinf hm, FloatFormat.mantissa_pattern hf.narrows hpos]
  · have hclass : f.classOf (widen q' f h) ≠ .nan := by
      have hclass16 : class16 h ≠ .nan := fun hc => Bool.eq_false_iff.mp hnan ((isNaN16_iff_class h).mpr hc)
      rw [classOf_widen hf]
      split_ifs
      · exact nofun
      · exact hclass16
    obtain ⟨N, hrow, hnear⟩ := exists_nearestMagnitude_narrow hf hclass q fill
    rw [steps_widen hf q' h hfin, steps_eq_steps16, ← grid16_eq_stepRatio hf] at hnear
    rw [hrow, sign_widen hf, hnear.eq_of_exact ((isNaN16_eq_false_iff h).mp hnan), ofNat_sign_magnitude]

/-- A NaN comes back with the mantissa that the two parameters make of its own. -/
theorem narrow_widen_of_nan (hnan : isNaN16 h = true) (q : NanQuieting) (fill : BitVec 10) :
    narrow q fill f (widen q f h) = binary16.pattern (binary16.sign h.toNat) (binary16.exponent h.toNat)
      (narrowNanMantissa q fill f (widenNanMantissa q f (binary16.mantissa h.toNat))) := by
  obtain ⟨he, hm⟩ := (isNaN16_iff h).mp hnan
  have hlt := widenNanMantissa_lt hf.widens q h
  rw [narrow_nan, sign_widen hf, he, widen_nan q he hm, FloatFormat.mantissa_pattern hf.narrows hlt]
  · rw [widen_nan q he hm, FloatFormat.exponent_pattern hf.narrows (ones_lt _) hlt]
  · rw [widen_nan q he hm, FloatFormat.mantissa_pattern hf.narrows hlt]
    exact widenNanMantissa_ne_zero q f hm

/-- R64 under PRESERVE. -/
theorem narrow_widen_preserve (fill : BitVec 10) (h : Half) :
    BitVec.ofNat 16 (narrow .preserve fill f (widen .preserve f h)) = h := by
  cases hnan : isNaN16 h with
  | false => exact narrow_widen_of_number hf hnan ..
  | true =>
    have hm := ((isNaN16_iff h).mp hnan).2
    rw [narrow_widen_of_nan hf hnan, narrowNanMantissa_widened_preserve hf (mantissa16_lt h) fill hm, pattern16_eq_toNat,
      BitVec.ofNat_toNat, BitVec.setWidth_eq]

/-- R64 under LIBRARY_COMPAT. -/
theorem narrow_widen_libraryCompat (fill : BitVec 10) (h : Half) :
    BitVec.ofNat 16 (narrow .libraryCompat fill f (widen .libraryCompat f h)) =
      if isNaN16 h then h ||| 0x0200#16 else h := by
  cases hnan : isNaN16 h with
  | false => exact narrow_widen_of_number hf hnan ..
  | true =>
    have hlt := mantissa16_lt h
    have hset :=
      calc binary16.pattern (binary16.sign h.toNat) (binary16.exponent h.toNat) (binary16.mantissa h.toNat ||| 0x200)
        _ = binary16.pattern (binary16.sign h.toNat) (binary16.exponent h.toNat) (binary16.mantissa h.toNat) ||| 0x200 :=
          (concat_or_low (q' := 0x200) (wq := 10) hlt (by decide)).symm
        _ = h.toNat ||| 0x200 := by rw [pattern16_eq_toNat]
        _ = (h ||| 0x0200#16).toNat := (BitVec.toNat_or h 0x0200#16).symm
    rw [narrow_widen_of_nan hf hnan, narrowNanMantissa_widened_libraryCompat hf hlt, Nat.lor_comm, hset, if_pos rfl,
      BitVec.ofNat_toNat, BitVec.setWidth_eq]

end RoundTrip

theorem f2hUnder_h2fUnder (q : NanQuieting) (fill : BitVec 10) (h : Half) :
    f2hUnder q fill (h2fUnder q h) = BitVec.ofNat 16 (narrow q fill binary32 (widen q binary32 h)) := by
  rw [f2hUnder, toNat_h2fUnder]

theorem d2hUnder_h2dUnder (q : NanQuieting) (fill : BitVec 10) (h : Half) :
    d2hUnder q fill (h2dUnder q h) = BitVec.ofNat 16 (narrow q fill binary64 (widen q binary64 h)) := by
  rw [d2hUnder, toNat_h2dUnder]

theorem f2h_h2f (h : Half) : fp32ToFp16Converter (fp16ToFp32Converter h) = h :=
  (f2hUnder_h2fUnder ..).trans (narrow_widen_preserve isWider_binary32 _ h)

theorem d2h_h2d (h : Half) : fp64ToFp16Converter (fp16ToFp64Converter h) = h :=
  (d2hUnder_h2dUnder ..).trans (narrow_widen_preserve isWider_binary64 _ h)

/-! ### Signs and payloads of widened patterns -/

theorem sign_h2f (h : Half) : binary32.sign (fp16ToFp32Converter h).toNat = binary16.sign h.toNat :=
  (congrArg _ (toNat_h2fUnder ..)).trans (sign_widen isWider_binary32 _ h)

theorem sign_h2d (h : Half) : binary64.sign (fp16ToFp64Converter h).toNat = binary16.sign h.toNat :=
  (congrArg _ (toNat_h2dUnder ..)).trans (sign_widen isWider_binary64 _ h)

theorem msb_eq_of_sign_eq {f : FloatFormat} {x : BitVec (1 + (f.ew + f.mw))} {h : Half}
    (hsign : f.sign x.toNat = binary16.sign h.toNat) : x.msb = h.msb := by
  have hbool : ∀ b c : Bool, b.toNat = c.toNat → b = c := by decide
  rw [sign_eq_msb, sign16_toNat, sign16_eq_msb] at hsign
  exact hbool _ _ hsign

theorem payload_widen {f : FloatFormat} (hf : f.IsWider) {w : Nat} {x : BitVec w} {h : Half} (hnan : isNaN16 h = true)
    (hx : x.toNat = widen .preserve f h) : x.extractLsb' (f.mw - 10) 10 = h.extractLsb' 0 10 := by
  obtain ⟨he, hm⟩ := (isNaN16_iff h).mp hnan
  refine BitVec.eq_of_toNat_eq ?_
  rw [← FloatFormat.topMantissa_eq_slice hf.narrows, hx, widen_nan _ he hm,
    FloatFormat.mantissa_pattern hf.narrows (widenNanMantissa_lt hf.widens _ h), toNat_mantissaSlice]
  exact topMantissa_shift hf (mantissa16_lt h)

/-! ### The wrapper, widening and then narrowing -/

theorem halfCore_h2f (a : Bus) (b : Half) : (halfCore (encode .h2f) a b).r = zext64 (fp16ToFp32Converter (a.setWidth 16)) := rfl

theorem halfCore_h2d (a : Bus) (b : Half) : (halfCore (encode .h2d) a b).r = fp16ToFp64Converter (a.setWidth 16) := rfl

theorem halfCore_f2h (a : Bus) (b : Half) : (halfCore (encode .f2h) a b).r = zext64 (fp32ToFp16Converter (a.setWidth 32)) := rfl

theorem halfCore_d2h (a : Bus) (b : Half) : (halfCore (encode .d2h) a b).r = zext64 (fp64ToFp16Converter a) := rfl

/-- A narrowing reads `a` alone, so to drive `a` beside the code is enough. -/
theorem step_feedBack (t : State) {i : Instr} (hi : i = .f2h ∨ i = .d2h) (a : Bus) :
    step ((t.driveOp (encode i)).driveA a) =
      .next (((t.driveOp (encode i)).driveA a).setOutputs (halfCore (encode i) a t.b.value).r 0#1) := by
  refine step_eq_halfCore (State.requestedCode_driveOp t (encode i)) ?_
  obtain rfl | rfl := hi
  · exact InPort.full_lowDriven (n := 32) a (by decide)
  · exact InPort.full_lowDriven (n := 64) a (by decide)

/-! ### The statements -/

/-- Settles O35: the number is the same, the fields are read back from the pattern, and narrowing undoes widening. -/
theorem wideningIsExactAndInjective : Obligations.WideningIsExactAndInjective := by
  refine ⟨fun h => ⟨numberOf_h2f h, numberOf_h2d h, ?_, ?_⟩, fun h hnan => ⟨?_, ?_, ?_, ?_⟩, ?_, ?_⟩
  · exact msb_eq_of_sign_eq (f := binary32) (sign_h2f h)
  · exact msb_eq_of_sign_eq (f := binary64) (sign_h2d h)
  · rw [classOf_h2f, (isNaN16_iff_class h).mp hnan]
    rfl
  · rw [classOf_h2d, (isNaN16_iff_class h).mp hnan]
    rfl
  · exact payload_widen isWider_binary32 hnan (toNat_h2fUnder ..)
  · exact payload_widen isWider_binary64 hnan (toNat_h2dUnder ..)
  · exact fun h h' heq => Function.LeftInverse.injective f2h_h2f heq
  · exact fun h h' heq => Function.LeftInverse.injective d2h_h2d heq

/-- Settles O42: both paths, under both settings of the parameter. -/
theorem widenThenNarrowIsTheIdentity : Obligations.WidenThenNarrowIsTheIdentity := fun h =>
  ⟨f2h_h2f h, d2h_h2d h, fun fill =>
    ⟨(f2hUnder_h2fUnder ..).trans (narrow_widen_libraryCompat isWider_binary32 fill h),
      (d2hUnder_h2dUnder ..).trans (narrow_widen_libraryCompat isWider_binary64 fill h)⟩⟩

/-- Settles O43: each step answers the wrapper's function of its driven levels, whose units undo each other. -/
theorem roundTripThroughTheWrapper : Obligations.RoundTripThroughTheWrapper := by
  intro s h
  constructor
  · refine ⟨_, step_driveRequest s (op := encode .h2f) rfl (zext64 h) 0#16, _, step_feedBack _ (i := .f2h) (.inl rfl) _, ?_⟩
    rw [State.setOutputs_r, State.setOutputs_r, halfCore_f2h, halfCore_h2f, setWidth_zext64 (by decide),
      setWidth_zext64 (by decide), f2h_h2f]
  · refine ⟨_, step_driveRequest s (op := encode .h2d) rfl (zext64 h) 0#16, _, step_feedBack _ (i := .d2h) (.inr rfl) _, ?_⟩
    rw [State.setOutputs_r, State.setOutputs_r, halfCore_d2h, halfCore_h2d, setWidth_zext64 (by decide), d2h_h2d]

end Sys2Proof.Machine
